-- ==== Sys2Proof/Word.lean ====
section
/-! DEFINITION. The two word types of the block: an 8-bit data path and a 16-bit address bus
(00_scope.md R2, R8). -/

namespace Sys2Proof

/-- `u8` of the spec (R10). -/
abbrev Byte := BitVec 8

/-- `u16` of the spec (R10): addresses and the program counter. -/
abbrev Word := BitVec 16

end Sys2Proof
end

