-- ==== Sys2Proof/Machine/Bits.lean ====
section
/-! DEFINITION. Bit fields, extensions and byte order: the notation of 00_scope.md R10, R11 and the
opcode fields of 30_encoding.md R90. -/

namespace Sys2Proof

/-- `zext_16(v)` (R11). -/
def zext16 (v : Byte) : Word := v.setWidth 16

/-- `sext_16(v)` (R11). -/
def sext16 (v : Byte) : Word := v.signExtend 16

/-- `(hi << 8) | lo` (R10). -/
def word (hi lo : Byte) : Word := hi ++ lo

/-- `v[15:8]`. -/
def hiByte (v : Word) : Byte := v.extractLsb' 8 8

/-- `v[7:0]`. -/
def loByte (v : Word) : Byte := v.extractLsb' 0 8

/-- Two addresses lie in one page when their bits 15:8 agree (R18). -/
def samePage (a b : Word) : Bool := hiByte a == hiByte b

/-- `aaa`, opcode bits 7:5 (R90). -/
def fieldA (op : Byte) : Nat := (op.extractLsb' 5 3).toNat

/-- `bbb`, opcode bits 4:2 (R90). -/
def fieldB (op : Byte) : Nat := (op.extractLsb' 2 3).toNat

/-- `cc`, opcode bits 1:0 (R90, 90_conflicts.md C12). -/
def fieldC (op : Byte) : Nat := (op.extractLsb' 0 2).toNat

end Sys2Proof
end

