-- ==== Sys2Proof/Syntax.lean ====
section
/-! DEFINITION. The instruction set as data: one constructor of `Instr` for each mnemonic of
spec/opcode_table.json, with the addressing form as its argument (DESIGN CHOICE, log entry 11). The
rows of one mnemonic are its operand forms. -/

namespace Sys2Proof

/-- The thirteen addressing modes, by 40_addressing.md R120 to R132. -/
inductive Mode where
  | implied
  | accumulator
  | immediate
  | zeroPage
  | zeroPageX
  | zeroPageY
  | absolute
  | absoluteX
  | absoluteY
  | indexedIndirect
  | indirectIndexed
  | relative
  | absoluteIndirect
deriving DecidableEq, Repr

/-- Instruction length in bytes, fixed by the addressing mode alone (30_encoding.md R91). -/
def Mode.length : Mode → Nat
  | .implied | .accumulator => 1
  | .immediate | .zeroPage | .zeroPageX | .zeroPageY | .indexedIndirect | .indirectIndexed
  | .relative => 2
  | .absolute | .absoluteX | .absoluteY | .absoluteIndirect => 3

/-- The eight modes whose effective address is a memory operand (R123 to R130), with the operand
bytes as fetched; a 16-bit operand is already assembled low byte first (R101). -/
inductive MemOperand where
  | zeroPage (b : Byte)
  | zeroPageX (b : Byte)
  | zeroPageY (b : Byte)
  | absolute (a : Word)
  | absoluteX (a : Word)
  | absoluteY (a : Word)
  | indexedIndirect (b : Byte)
  | indirectIndexed (b : Byte)
deriving DecidableEq, Repr

/-- The operand of a read-class instruction (R134): an immediate byte (R122) or a memory cell. -/
inductive ReadOperand where
  | immediate (b : Byte)
  | memory (m : MemOperand)
deriving DecidableEq, Repr

/-- The operand of a shift or rotate: the accumulator (R121) or a memory cell. -/
inductive ShiftOperand where
  | accumulator
  | memory (m : MemOperand)
deriving DecidableEq, Repr

/-- The operand of JMP: the target (R126) or the address of a pointer to it (R132). -/
inductive JumpOperand where
  | absolute (a : Word)
  | indirect (a : Word)
deriving DecidableEq, Repr

/-- The operand bytes an undocumented opcode consumes (44_stack_flags_misc.md R222, R224). -/
inductive UndocOperand where
  | implied
  | immediate (b : Byte)
  | memory (m : MemOperand)
deriving DecidableEq, Repr

/-- The instructions. Branches carry their displacement byte (R131); `undoc` carries its opcode,
which selects its cycle count and is the reason of its fault (R223, R224). -/
inductive Instr where
  | lda (o : ReadOperand)
  | ldx (o : ReadOperand)
  | ldy (o : ReadOperand)
  | sta (m : MemOperand)
  | stx (m : MemOperand)
  | sty (m : MemOperand)
  | tax
  | tay
  | txa
  | tya
  | tsx
  | txs
  | ora (o : ReadOperand)
  | and (o : ReadOperand)
  | eor (o : ReadOperand)
  | adc (o : ReadOperand)
  | sbc (o : ReadOperand)
  | cmp (o : ReadOperand)
  | cpx (o : ReadOperand)
  | cpy (o : ReadOperand)
  | bit (m : MemOperand)
  | inc (m : MemOperand)
  | dec (m : MemOperand)
  | inx
  | iny
  | dex
  | dey
  | asl (o : ShiftOperand)
  | lsr (o : ShiftOperand)
  | rol (o : ShiftOperand)
  | ror (o : ShiftOperand)
  | bpl (d : Byte)
  | bmi (d : Byte)
  | bvc (d : Byte)
  | bvs (d : Byte)
  | bcc (d : Byte)
  | bcs (d : Byte)
  | bne (d : Byte)
  | beq (d : Byte)
  | jmp (o : JumpOperand)
  | jsr (a : Word)
  | rts
  | brk
  | rti
  | pha
  | php
  | pla
  | plp
  | clc
  | sec
  | cli
  | sei
  | clv
  | cld
  | sed
  | nop
  | undoc (op : Byte) (o : UndocOperand)
deriving DecidableEq, Repr

def MemOperand.mode : MemOperand → Mode
  | .zeroPage _ => .zeroPage
  | .zeroPageX _ => .zeroPageX
  | .zeroPageY _ => .zeroPageY
  | .absolute _ => .absolute
  | .absoluteX _ => .absoluteX
  | .absoluteY _ => .absoluteY
  | .indexedIndirect _ => .indexedIndirect
  | .indirectIndexed _ => .indirectIndexed

def ReadOperand.mode : ReadOperand → Mode
  | .immediate _ => .immediate
  | .memory m => m.mode

def ShiftOperand.mode : ShiftOperand → Mode
  | .accumulator => .accumulator
  | .memory m => m.mode

def JumpOperand.mode : JumpOperand → Mode
  | .absolute _ => .absolute
  | .indirect _ => .absoluteIndirect

def UndocOperand.mode : UndocOperand → Mode
  | .implied => .implied
  | .immediate _ => .immediate
  | .memory m => m.mode

/-- The addressing mode of an instruction (30_encoding.md R100). -/
def Instr.mode : Instr → Mode
  | .lda o | .ldx o | .ldy o | .ora o | .and o | .eor o | .adc o | .sbc o | .cmp o | .cpx o
  | .cpy o => o.mode
  | .sta m | .stx m | .sty m | .bit m | .inc m | .dec m => m.mode
  | .asl o | .lsr o | .rol o | .ror o => o.mode
  | .bpl _ | .bmi _ | .bvc _ | .bvs _ | .bcc _ | .bcs _ | .bne _ | .beq _ => .relative
  | .jmp o => o.mode
  | .jsr _ => .absolute
  | .undoc _ o => o.mode
  | .tax | .tay | .txa | .tya | .tsx | .txs | .inx | .iny | .dex | .dey | .rts | .brk | .rti
  | .pha | .php | .pla | .plp | .clc | .sec | .cli | .sei | .clv | .cld | .sed | .nop => .implied

/-- The length of an instruction in bytes (R91). -/
def Instr.length (i : Instr) : Nat := i.mode.length

end Sys2Proof
end

