-- ==== Sys2Proof/Machine/Undocumented.lean ====
section
/-! DEFINITION. The 105 undocumented opcodes: which they are (30_encoding.md R99), and their mode and
cycle count (44_stack_flags_misc.md R224). The tests hold the R224 table row by row. -/

namespace Sys2Proof

/-- R99: the opcodes that tests 1 to 4 of the decoder leave. -/
def isUndocumented (op : Byte) : Bool :=
  fieldC op == 3
    || [0x02, 0x22, 0x42, 0x62, 0x82, 0xC2, 0xE2, 0x12, 0x32, 0x52, 0x72, 0x92, 0xB2, 0xD2, 0xF2,
        0x1A, 0x3A, 0x5A, 0x7A, 0xDA, 0xFA, 0x9E].contains op
    || op == 0x89
    || [0x80, 0x04, 0x44, 0x64, 0x0C, 0x14, 0x34, 0x54, 0x74, 0xD4, 0xF4, 0x1C, 0x3C, 0x5C, 0x7C,
        0x9C, 0xDC, 0xFC].contains op

/-- R225: the opcodes that halt a real NMOS 6502; here plain no-operations (R225; log entry 7). -/
def kilOpcodes : List Byte :=
  [0x02, 0x12, 0x22, 0x32, 0x42, 0x52, 0x62, 0x72, 0x92, 0xB2, 0xD2, 0xF2]

/-- `undoc_mode(op)` (R224): the mode of the opcode's `bbb` column, where `cc = 11` takes the
`cc = 01` column, with `,Y` for `,X` at `bbb = 5, 7` when `aaa` is 4 or 5. Meant for the opcodes of
`isUndocumented` alone. -/
def undocMode (op : Byte) : Mode :=
  let stxLdx := fieldA op == 4 || fieldA op == 5
  match fieldB op with
  | 0 =>
    if fieldC op == 3 then .indexedIndirect
    else if fieldC op == 2 && fieldA op < 4 then .implied
    else .immediate
  | 1 => .zeroPage
  | 2 => if fieldC op == 2 then .implied else .immediate
  | 3 => .absolute
  | 4 => if fieldC op == 3 then .indirectIndexed else .implied
  | 5 => if fieldC op == 3 && stxLdx then .zeroPageY else .zeroPageX
  | 6 => if fieldC op == 3 then .absoluteY else .implied
  | _ => if fieldC op != 0 && stxLdx then .absoluteY else .absoluteX

/-- The cycle column of R224. With `cc = 11` the count is that of a store (`aaa = 4`), of a load
(`aaa = 5`) or of a read-modify-write instruction; elsewhere that of a read, but for 9C and 9E. -/
def undocCycles (op : Byte) : Nat :=
  if fieldC op == 3 && fieldA op != 4 && fieldA op != 5 then
    match undocMode op with
    | .immediate => 2
    | .zeroPage => 5
    | .absolute | .zeroPageX => 6
    | .absoluteX | .absoluteY => 7
    | _ => 8
  else
    match undocMode op with
    | .zeroPage => 3
    | .zeroPageX | .zeroPageY | .absolute => 4
    | .absoluteX | .absoluteY => if fieldA op == 4 then 5 else 4
    | .indexedIndirect => 6
    | .indirectIndexed => if fieldA op == 4 then 6 else 5
    | _ => 2

/-- The `+1 if crossed` column of R224. -/
def undocPenalty (op : Byte) : Bool :=
  [0x1C, 0x3C, 0x5C, 0x7C, 0xDC, 0xFC, 0xB3, 0xBB, 0xBF].contains op

end Sys2Proof
end

