-- ==== Sys2Proof/Decode.lean ====
section
/-! DEFINITION. The decoder of 30_encoding.md R92, one definition for each of its five tests, then
the encoder written from the same tables (R93 to R99). -/

namespace Sys2Proof

/-! ## Decoder -/

/-- Test 1 (R93): BRK, JSR, RTI, RTS by exact value. -/
def decodeSub (op b1 b2 : Byte) : Option Instr :=
  if op = 0x00 then some .brk
  else if op = 0x20 then some (.jsr (word b2 b1))
  else if op = 0x40 then some .rti
  else if op = 0x60 then some .rts
  else none

/-- Test 2 (R94): bits 7:6 select the flag among N, V, C, Z and bit 5 the polarity. -/
def decodeBranch (op d : Byte) : Option Instr :=
  if op &&& 0x1F = 0x10 then
    match (op.extractLsb' 6 2).toNat, op.getLsbD 5 with
    | 0, false => some (.bpl d)
    | 0, true => some (.bmi d)
    | 1, false => some (.bvc d)
    | 1, true => some (.bvs d)
    | 2, false => some (.bcc d)
    | 2, true => some (.bcs d)
    | _, false => some (.bne d)
    | _, true => some (.beq d)
  else none

/-- The opcode values of the 22 single-byte instructions (R95). -/
def impliedTable : List (Byte × Instr) :=
  [(0x08, .php), (0x28, .plp), (0x48, .pha), (0x68, .pla),
   (0x88, .dey), (0xA8, .tay), (0xC8, .iny), (0xE8, .inx),
   (0x18, .clc), (0x38, .sec), (0x58, .cli), (0x78, .sei),
   (0x98, .tya), (0xB8, .clv), (0xD8, .cld), (0xF8, .sed),
   (0x8A, .txa), (0xAA, .tax), (0xCA, .dex), (0xEA, .nop),
   (0x9A, .txs), (0xBA, .tsx)]

/-- Test 3 (R95): by exact value, before the group test (90_conflicts.md C1). -/
def decodeImplied (op : Byte) : Option Instr := impliedTable.lookup op

/-- The addressing row of table `cc = 01` by `bbb` (R96). -/
def groupOneOperand (bbb : Nat) (b1 b2 : Byte) : ReadOperand :=
  match bbb with
  | 0 => .memory (.indexedIndirect b1)
  | 1 => .memory (.zeroPage b1)
  | 2 => .immediate b1
  | 3 => .memory (.absolute (word b2 b1))
  | 4 => .memory (.indirectIndexed b1)
  | 5 => .memory (.zeroPageX b1)
  | 6 => .memory (.absoluteY (word b2 b1))
  | _ => .memory (.absoluteX (word b2 b1))

/-- Table `cc = 01` (R96). -/
def decodeGroupOne (aaa bbb : Nat) (b1 b2 : Byte) : Option Instr :=
  let o := groupOneOperand bbb b1 b2
  match aaa with
  | 0 => some (.ora o)
  | 1 => some (.and o)
  | 2 => some (.eor o)
  | 3 => some (.adc o)
  | 4 => match o with
    | .immediate _ => none
    | .memory m => some (.sta m)
  | 5 => some (.lda o)
  | 6 => some (.cmp o)
  | _ => some (.sbc o)

/-- The memory columns of table `cc = 10`, with `,X` (R97). -/
def groupTwoMemory (bbb : Nat) (b1 b2 : Byte) : Option MemOperand :=
  match bbb with
  | 1 => some (.zeroPage b1)
  | 3 => some (.absolute (word b2 b1))
  | 5 => some (.zeroPageX b1)
  | 7 => some (.absoluteX (word b2 b1))
  | _ => none

/-- The shift columns of table `cc = 10`: `bbb = 2` is the accumulator (R97). -/
def groupTwoShift (bbb : Nat) (b1 b2 : Byte) : Option ShiftOperand :=
  if bbb = 2 then some .accumulator else (groupTwoMemory bbb b1 b2).map .memory

/-- The STX row of table `cc = 10`: `,Y` at `bbb = 5`, no cell at `bbb = 7` (R97). -/
def stxOperand (bbb : Nat) (b1 b2 : Byte) : Option MemOperand :=
  match bbb with
  | 1 => some (.zeroPage b1)
  | 3 => some (.absolute (word b2 b1))
  | 5 => some (.zeroPageY b1)
  | _ => none

/-- The LDX row of table `cc = 10`: immediate at `bbb = 0`, `,Y` at `bbb = 5, 7` (R97). -/
def ldxOperand (bbb : Nat) (b1 b2 : Byte) : Option ReadOperand :=
  match bbb with
  | 0 => some (.immediate b1)
  | 1 => some (.memory (.zeroPage b1))
  | 3 => some (.memory (.absolute (word b2 b1)))
  | 5 => some (.memory (.zeroPageY b1))
  | 7 => some (.memory (.absoluteY (word b2 b1)))
  | _ => none

/-- Table `cc = 10` (R97). -/
def decodeGroupTwo (aaa bbb : Nat) (b1 b2 : Byte) : Option Instr :=
  match aaa with
  | 0 => (groupTwoShift bbb b1 b2).map .asl
  | 1 => (groupTwoShift bbb b1 b2).map .rol
  | 2 => (groupTwoShift bbb b1 b2).map .lsr
  | 3 => (groupTwoShift bbb b1 b2).map .ror
  | 4 => (stxOperand bbb b1 b2).map .stx
  | 5 => (ldxOperand bbb b1 b2).map .ldx
  | 6 => (groupTwoMemory bbb b1 b2).map .dec
  | _ => (groupTwoMemory bbb b1 b2).map .inc

/-- The addressing row of table `cc = 00` by `bbb`, restricted to the columns a row defines (R98). -/
def groupZeroOperand (columns : List Nat) (bbb : Nat) (b1 b2 : Byte) : Option ReadOperand :=
  if columns.contains bbb then
    match bbb with
    | 0 => some (.immediate b1)
    | 1 => some (.memory (.zeroPage b1))
    | 3 => some (.memory (.absolute (word b2 b1)))
    | 5 => some (.memory (.zeroPageX b1))
    | 7 => some (.memory (.absoluteX (word b2 b1)))
    | _ => none
  else none

/-- The memory operand of a `cc = 00` cell; an immediate cell is none. -/
def groupZeroMemory (columns : List Nat) (bbb : Nat) (b1 b2 : Byte) : Option MemOperand :=
  match groupZeroOperand columns bbb b1 b2 with
  | some (.memory m) => some m
  | _ => none

/-- Table `cc = 00` (R98). -/
def decodeGroupZero (aaa bbb : Nat) (b1 b2 : Byte) : Option Instr :=
  match aaa with
  | 1 => (groupZeroMemory [1, 3] bbb b1 b2).map .bit
  | 2 => if bbb = 3 then some (.jmp (.absolute (word b2 b1))) else none
  | 3 => if bbb = 3 then some (.jmp (.indirect (word b2 b1))) else none
  | 4 => (groupZeroMemory [1, 3, 5] bbb b1 b2).map .sty
  | 5 => (groupZeroOperand [0, 1, 3, 5, 7] bbb b1 b2).map .ldy
  | 6 => (groupZeroOperand [0, 1, 3] bbb b1 b2).map .cpy
  | 7 => (groupZeroOperand [0, 1, 3] bbb b1 b2).map .cpx
  | _ => none

/-- Test 4: the three `aaabbbcc` tables (R96 to R98); `cc = 11` has none. -/
def decodeGroup (op b1 b2 : Byte) : Option Instr :=
  match fieldC op with
  | 0 => decodeGroupZero (fieldA op) (fieldB op) b1 b2
  | 1 => decodeGroupOne (fieldA op) (fieldB op) b1 b2
  | 2 => decodeGroupTwo (fieldA op) (fieldB op) b1 b2
  | _ => none

/-- The operand bytes of an undocumented opcode, by its mode (R224). -/
def undocOperand (op b1 b2 : Byte) : UndocOperand :=
  match undocMode op with
  | .immediate => .immediate b1
  | .zeroPage => .memory (.zeroPage b1)
  | .zeroPageX => .memory (.zeroPageX b1)
  | .zeroPageY => .memory (.zeroPageY b1)
  | .absolute => .memory (.absolute (word b2 b1))
  | .absoluteX => .memory (.absoluteX (word b2 b1))
  | .absoluteY => .memory (.absoluteY (word b2 b1))
  | .indexedIndirect => .memory (.indexedIndirect b1)
  | .indirectIndexed => .memory (.indirectIndexed b1)
  | .implied | .accumulator | .relative | .absoluteIndirect => .implied

/-- The decoder (R92): the first test that holds classifies the opcode, and test 5 takes the rest,
so it is total on every opcode (R103). `b1` and `b2` are the two bytes after the opcode. -/
def decodeOp (op b1 b2 : Byte) : Instr :=
  match decodeSub op b1 b2 with
  | some i => i
  | none =>
    match decodeBranch op b1 with
    | some i => i
    | none =>
      match decodeImplied op with
      | some i => i
      | none =>
        match decodeGroup op b1 b2 with
        | some i => i
        | none => .undoc op (undocOperand op b1 b2)

/-- Why a byte sequence holds no instruction: no byte at all, or fewer bytes than the opcode's
length (R91). No opcode value is a reason (R103). -/
inductive DecodeError where
  | empty
  | truncated
deriving DecidableEq, Repr

/-- Decode the first instruction of a byte sequence and give the bytes after it. -/
def decode (bytes : List Byte) : Except DecodeError (Instr × List Byte) :=
  match bytes with
  | [] => .error .empty
  | op :: rest =>
    let i := decodeOp op (rest.headD 0) (rest.tail.headD 0)
    if rest.length + 1 < i.length then .error .truncated
    else .ok (i, rest.drop (i.length - 1))

/-- The host's word numbering: byte `k` of the instruction is bits `8k+7 .. 8k` of `w`, and every
bit from `nbits` up is 0. -/
def tableByte (nbits w k : Nat) : Byte := BitVec.ofNat 8 ((w % 2 ^ nbits) / 2 ^ (8 * k))

/-- The instruction the decoder reads from a word numbered as the opcode table numbers it. -/
def decodeTableWord (nbits w : Nat) : Option Instr :=
  match decode [tableByte nbits w 0, tableByte nbits w 1, tableByte nbits w 2] with
  | .ok (i, _) => some i
  | .error _ => none

/-! ## Encoder -/

/-- An opcode from its fields (R90). -/
def opcodeOf (aaa bbb cc : Nat) : Byte := BitVec.ofNat 8 (aaa * 32 + bbb * 4 + cc)

/-- The `bbb` of a memory mode in table `cc = 01` (R96). -/
def groupOneColumn : Mode → Option Nat
  | .indexedIndirect => some 0
  | .zeroPage => some 1
  | .immediate => some 2
  | .absolute => some 3
  | .indirectIndexed => some 4
  | .zeroPageX => some 5
  | .absoluteY => some 6
  | .absoluteX => some 7
  | _ => none

/-- The `bbb` of a mode in the shift, INC and DEC rows of table `cc = 10` (R97). -/
def groupTwoColumn : Mode → Option Nat
  | .zeroPage => some 1
  | .accumulator => some 2
  | .absolute => some 3
  | .zeroPageX => some 5
  | .absoluteX => some 7
  | _ => none

/-- The `bbb` of a mode in the LDX row of table `cc = 10` (R97). -/
def ldxColumn : Mode → Option Nat
  | .immediate => some 0
  | .zeroPage => some 1
  | .absolute => some 3
  | .zeroPageY => some 5
  | .absoluteY => some 7
  | _ => none

/-- The `bbb` of a mode in the STX row of table `cc = 10` (R97). -/
def stxColumn : Mode → Option Nat
  | .zeroPage => some 1
  | .absolute => some 3
  | .zeroPageY => some 5
  | _ => none

/-- The `bbb` of a mode in table `cc = 00`, restricted to the columns the row defines (R98). -/
def groupZeroColumn (columns : List Nat) (m : Mode) : Option Nat :=
  let bbb := match m with
    | .immediate => some 0
    | .zeroPage => some 1
    | .absolute => some 3
    | .zeroPageX => some 5
    | .absoluteX => some 7
    | _ => none
  bbb.filter columns.contains

/-- The opcode of an instruction; none when no opcode has its mode. -/
def opcode (i : Instr) : Option Byte :=
  match i with
  | .brk => some 0x00
  | .jsr _ => some 0x20
  | .rti => some 0x40
  | .rts => some 0x60
  | .bpl _ => some 0x10
  | .bmi _ => some 0x30
  | .bvc _ => some 0x50
  | .bvs _ => some 0x70
  | .bcc _ => some 0x90
  | .bcs _ => some 0xB0
  | .bne _ => some 0xD0
  | .beq _ => some 0xF0
  | .php => some 0x08
  | .plp => some 0x28
  | .pha => some 0x48
  | .pla => some 0x68
  | .dey => some 0x88
  | .tay => some 0xA8
  | .iny => some 0xC8
  | .inx => some 0xE8
  | .clc => some 0x18
  | .sec => some 0x38
  | .cli => some 0x58
  | .sei => some 0x78
  | .tya => some 0x98
  | .clv => some 0xB8
  | .cld => some 0xD8
  | .sed => some 0xF8
  | .txa => some 0x8A
  | .tax => some 0xAA
  | .dex => some 0xCA
  | .nop => some 0xEA
  | .txs => some 0x9A
  | .tsx => some 0xBA
  | .ora o => (groupOneColumn o.mode).map (opcodeOf 0 · 1)
  | .and o => (groupOneColumn o.mode).map (opcodeOf 1 · 1)
  | .eor o => (groupOneColumn o.mode).map (opcodeOf 2 · 1)
  | .adc o => (groupOneColumn o.mode).map (opcodeOf 3 · 1)
  | .sta m => (groupOneColumn m.mode).map (opcodeOf 4 · 1)
  | .lda o => (groupOneColumn o.mode).map (opcodeOf 5 · 1)
  | .cmp o => (groupOneColumn o.mode).map (opcodeOf 6 · 1)
  | .sbc o => (groupOneColumn o.mode).map (opcodeOf 7 · 1)
  | .asl o => (groupTwoColumn o.mode).map (opcodeOf 0 · 2)
  | .rol o => (groupTwoColumn o.mode).map (opcodeOf 1 · 2)
  | .lsr o => (groupTwoColumn o.mode).map (opcodeOf 2 · 2)
  | .ror o => (groupTwoColumn o.mode).map (opcodeOf 3 · 2)
  | .stx m => (stxColumn m.mode).map (opcodeOf 4 · 2)
  | .ldx o => (ldxColumn o.mode).map (opcodeOf 5 · 2)
  | .dec m => (groupTwoColumn m.mode).map (opcodeOf 6 · 2)
  | .inc m => (groupTwoColumn m.mode).map (opcodeOf 7 · 2)
  | .bit m => (groupZeroColumn [1, 3] m.mode).map (opcodeOf 1 · 0)
  | .jmp (.absolute _) => some (opcodeOf 2 3 0)
  | .jmp (.indirect _) => some (opcodeOf 3 3 0)
  | .sty m => (groupZeroColumn [1, 3, 5] m.mode).map (opcodeOf 4 · 0)
  | .ldy o => (groupZeroColumn [0, 1, 3, 5, 7] o.mode).map (opcodeOf 5 · 0)
  | .cpy o => (groupZeroColumn [0, 1, 3] o.mode).map (opcodeOf 6 · 0)
  | .cpx o => (groupZeroColumn [0, 1, 3] o.mode).map (opcodeOf 7 · 0)
  | .undoc op o => if isUndocumented op && o.mode == undocMode op then some op else none

/-- A 16-bit operand as stored: low byte first (R91, R101). -/
def wordBytes (a : Word) : List Byte := [loByte a, hiByte a]

def memOperandBytes : MemOperand → List Byte
  | .zeroPage b | .zeroPageX b | .zeroPageY b | .indexedIndirect b | .indirectIndexed b => [b]
  | .absolute a | .absoluteX a | .absoluteY a => wordBytes a

def readOperandBytes : ReadOperand → List Byte
  | .immediate b => [b]
  | .memory m => memOperandBytes m

def shiftOperandBytes : ShiftOperand → List Byte
  | .accumulator => []
  | .memory m => memOperandBytes m

def undocOperandBytes : UndocOperand → List Byte
  | .implied => []
  | .immediate b => [b]
  | .memory m => memOperandBytes m

/-- The operand bytes that follow the opcode (R91). -/
def operandBytes (i : Instr) : List Byte :=
  match i with
  | .lda o | .ldx o | .ldy o | .ora o | .and o | .eor o | .adc o | .sbc o | .cmp o | .cpx o
  | .cpy o => readOperandBytes o
  | .sta m | .stx m | .sty m | .bit m | .inc m | .dec m => memOperandBytes m
  | .asl o | .lsr o | .rol o | .ror o => shiftOperandBytes o
  | .bpl d | .bmi d | .bvc d | .bvs d | .bcc d | .bcs d | .bne d | .beq d => [d]
  | .jmp (.absolute a) | .jmp (.indirect a) | .jsr a => wordBytes a
  | .undoc _ o => undocOperandBytes o
  | .tax | .tay | .txa | .tya | .tsx | .txs | .inx | .iny | .dex | .dey | .rts | .brk | .rti
  | .pha | .php | .pla | .plp | .clc | .sec | .cli | .sei | .clv | .cld | .sed | .nop => []

/-- The bytes of a well-formed instruction; none for a term no opcode stands for. -/
def encode (i : Instr) : Option (List Byte) := (opcode i).map (· :: operandBytes i)

end Sys2Proof
end

