-- ==== Sys2Proof/Config.lean ====
section
/-! DEFINITION. What is fixed for one block and is not its changing state: the parameters of
00_scope.md R9, the cartridge input of 20_memory.md R70, and the constants of the scanline timer.
The spec leaves no value free (93_implementation_defined.md: "No value anywhere in the block is left
`any value`"), so no free value stands here. -/

namespace Sys2Proof

/-- The parameter `UNDOC_POLICY` (R9, D5): what an undocumented opcode does. -/
inductive UndocPolicy where
  | nop
  | fault
deriving DecidableEq, Repr

/-- The parameter `BRK_PC_OFFSET` (R9, D8): how far past the opcode address BRK's pushed address
lies; 1 and 2 are its only values. -/
inductive BrkPcOffset where
  | one
  | two
deriving DecidableEq, Repr

/-- The offset as an address increment. -/
def BrkPcOffset.toWord : BrkPcOffset → Word
  | .one => 1
  | .two => 2

/-- The named parameters of R9 that a step reads, with the spec's defaults. `RUN_END`, the third,
is an argument of `runUntil` in Safety.lean. -/
structure Params where
  undocPolicy : UndocPolicy := .nop
  brkPcOffset : BrkPcOffset := .two
deriving DecidableEq, Repr

/-- The argument of CONFIGURE (R70): header fields, the extracted PRG and CHR bytes, and the
external loader's verdict that the image is neither malformed nor truncated (R249). -/
structure Cart where
  mapper        : Nat
  prgRomSizeKB  : Nat
  chrRomSizeKB  : Nat
  hasBatteryRAM : Bool
  hasTrainer    : Bool
  mirroring     : Nat
  prg           : List Byte
  chr           : List Byte
  imageOk       : Bool
deriving DecidableEq, Repr

/-- Size of the PRG ROM in bytes (R8). -/
abbrev prgBytes : Nat := 0x4000

/-- Size of the PPU memory in bytes (R8, R69). -/
abbrev vramBytes : Nat := 0x4000

/-- The PPU cycle of a frame at which vertical blank begins, 241 × 341 (R254). -/
abbrev vblankCycle : Nat := 241 * 341

/-- PPU cycles in a frame, 262 × 341 (R41, R255). -/
abbrev frameCycles : Nat := 262 * 341

end Sys2Proof
end

