-- ==== Sys2Proof/Machine/State.lean ====
section
/-! DEFINITION. The state of the block, the tuple (CPU, MEM, PPU, SYS) of 10_state.md, its value
after RESET, and the reasons a transaction can stop. -/

namespace Sys2Proof.Machine

/-- The status register P as seven booleans (10_state.md R25); bit 5 is not stored. -/
structure Flags where
  n : Bool
  v : Bool
  b : Bool
  d : Bool
  i : Bool
  z : Bool
  c : Bool
deriving DecidableEq, Repr

/-- Memory cells in canonical form: addresses strictly rising, and no cell that holds what an
unlisted address reads as. -/
abbrev Memory := List Host.Cell

/-- The state between steps. -/
structure State where
  /-- A, X, Y, SP and PC (R21 to R24). -/
  a : Byte
  x : Byte
  y : Byte
  sp : Byte
  pc : Word
  /-- P (R25). -/
  p : Flags
  /-- MEM (R33); the PPU register file is its cells 0x2000 to 0x2007 (R34). -/
  mem : Memory
  /-- The PPU memory (R38). -/
  vram : Memory
  /-- The VRAM address (R39). -/
  vaddr : Word
  /-- The PPUADDR write phase (R40): true when the next write supplies the low byte. -/
  w : Bool
  /-- The scanline timer's count of PPU cycles in the frame (R41). -/
  ppuCycle : Nat
  /-- SYS.faulted (R42). -/
  faulted : Bool
  /-- The opcode that Fault(UNDOC(op)) names (44_stack_flags_misc.md R223, 60_exceptions.md R240);
  the model's own field (DESIGN CHOICE, log entry 4). -/
  faultReason : Option Byte
  /-- SYS.cycle_total (R42). -/
  cycleTotal : Nat
  /-- The parameters of 00_scope.md R9: configuration, written by nothing (DESIGN CHOICE,
  log entry 1). -/
  params : Params
deriving DecidableEq, Repr

/-- Why a STEP has no transition. -/
inductive Fault where
  /-- Raised by `step` in the faulted state (30_encoding.md R112): the block is stopped until RESET.
  It carries the opcode of Fault(UNDOC(op)). Safe: the spec gives no transition here. -/
  | stopped (reason : Option Byte)
deriving DecidableEq, Repr

/-- Why a transaction is refused. -/
inductive Refusal where
  /-- Raised by an arm of `exec` whose instruction has no meaning yet; no arm is left. Safe. -/
  | notModelled (mnemonic : String)
  /-- Raised by the host transactions of Machine/Block.lean for a STEP before the first RESET
  (10_state.md R46, D31). Safe: the spec asks for the refusal. -/
  | beforeReset
  /-- Raised by the host transactions for a RESET before CONFIGURE, or any transaction after a
  failed CONFIGURE (60_exceptions.md R249, R263). Safe: the spec asks for the refusal. -/
  | noCartridge
  /-- Raised by the host transactions for a second CONFIGURE (R263: once; DEDUCED, log entry 8).
  Safe. -/
  | alreadyConfigured
deriving DecidableEq, Repr

/-- P after RESET: `Pbyte() = 0x34` (R45). -/
def Flags.reset : Flags :=
  { n := false, v := false, b := true, d := false, i := true, z := false, c := false }

/-- The block right after RESET (R45) with the default parameters and, since the cartridge is an
input the spec gives no value for, an all-zero PRG image and no CHR ROM (DESIGN CHOICE, log
entry 2). Nothing is listed in memory: what an unlisted address reads as is the reset content (log
entry 5). `Machine.reset` gives the state after RESET for every cartridge. -/
def State.reset : State :=
  { a := 0x00, x := 0x00, y := 0x00, sp := 0xFD, pc := 0x0000, p := Flags.reset,
    mem := [], vram := [], vaddr := 0x0000, w := false, ppuCycle := 0,
    faulted := false, faultReason := none, cycleTotal := 0, params := {} }

end Sys2Proof.Machine
end

