-- ==== Sys2Proof/Machine/Ops.lean ====
section
/-! DEFINITION. The named operations every meaning is built from: memory cells, the bus with the
side effects of the PPU registers (20_memory.md), registers and status (10_state.md), the stack,
fetching, trap entry and return, and the undocumented-opcode fault. -/

namespace Sys2Proof.Machine

/-! ## Cells -/

/-- The byte at an address of a cell list; `dflt` is what an unlisted address reads as. -/
def readCell (dflt : Nat → Byte) : Memory → Nat → Byte
  | [], a => dflt a
  | c :: m, a => if c.1 = a then c.2 else readCell dflt m a

/-- Put a cell before the first cell of a higher address. -/
def insertCell (c : Host.Cell) : Memory → Memory
  | [] => [c]
  | d :: m => if c.1 < d.1 then c :: d :: m else d :: insertCell c m

/-- Set the byte at an address, keeping the canonical form: a byte that an unlisted address would
read as is not listed. -/
def writeCell (dflt : Nat → Byte) (m : Memory) (a : Nat) (v : Byte) : Memory :=
  let others := m.filter (fun c => c.1 != a)
  if v = dflt a then others else insertCell (a, v) others

/-- The canonical form below a bound. -/
abbrev CellsWf (dflt : Nat → Byte) (bound : Nat) (m : Memory) : Prop :=
  m.Pairwise (fun c d => c.1 < d.1) ∧ ∀ c ∈ m, c.1 < bound ∧ c.2 ≠ dflt c.1

/-- What an unlisted MEM address reads as: its content after the bus reset, less the cartridge
(70_reset_and_hazards.md R271): 0x00, and 0xA0 in PPUSTATUS. -/
def memDefault (a : Nat) : Byte := if a = 0x2002 then 0xA0 else 0x00

/-- What an unlisted VRAM index reads as (R272). -/
def vramDefault (_ : Nat) : Byte := 0x00

/-- The canonical form of MEM: 65536 cells. -/
abbrev Memory.wf (m : Memory) : Prop := CellsWf memDefault 0x10000 m

/-- The canonical form of VRAM: 16384 cells. -/
abbrev Memory.vramWf (m : Memory) : Prop := CellsWf vramDefault vramBytes m

/-- `MEM[a]`, the cell itself, with no bus effect. -/
def cell (s : State) (a : Word) : Byte := readCell memDefault s.mem a.toNat

/-- `MEM[a] <- v`, the cell itself, with no bus effect. -/
def setCell (a : Word) (v : Byte) (s : State) : State :=
  { s with mem := writeCell memDefault s.mem a.toNat v }

/-- `VRAM[i]`. -/
def vramCell (s : State) (i : Nat) : Byte := readCell vramDefault s.vram i

/-- `VRAM[i] <- v`. -/
def setVramCell (i : Nat) (v : Byte) (s : State) : State :=
  { s with vram := writeCell vramDefault s.vram i v }

/-! ## The bus -/

/-- What the address decoder routes to (20_memory.md R51). -/
inductive Region where
  | store
  | ppuReg
  | rom
deriving DecidableEq, Repr

/-- `region(a)` (R51): decided by the address alone. -/
def region (a : Word) : Region :=
  if 0x2000 ≤ a.toNat ∧ a.toNat ≤ 0x3FFF then .ppuReg
  else if 0x8000 ≤ a.toNat then .rom
  else .store

def ppuCtrl : Word := 0x2000
def ppuStatus : Word := 0x2002
def ppuAddr : Word := 0x2006
def ppuData : Word := 0x2007

/-- The register an address of the window reaches (R53). -/
def ppuRegOf (a : Word) : Word := 0x2000 + a % 8

/-- The MEM cell an access to `a` reaches: its own, but for the mirrored window (R34, R51). -/
def cellOf (a : Word) : Word :=
  match region a with
  | .ppuReg => ppuRegOf a
  | .store | .rom => a

/-- Clear bit 7 of PPUSTATUS, the vertical-blank flag (R55, 60_exceptions.md R255). -/
def clearVblank (s : State) : State := setCell ppuStatus (cell s ppuStatus &&& 0x7F) s

/-- Set bit 7 of PPUSTATUS (60_exceptions.md R254). -/
def setVblank (s : State) : State := setCell ppuStatus (cell s ppuStatus ||| 0x80) s

/-- `MemRead(a, 1)` (R54): the byte, and the state after the access; a read of PPUSTATUS clears its
bit 7 after the value is taken (R55). -/
def memRead (a : Word) (s : State) : Byte × State :=
  match region a with
  | .ppuReg =>
    (cell s (ppuRegOf a), if ppuRegOf a = ppuStatus then clearVblank s else s)
  | .store | .rom => (cell s a, s)

/-- `Peek(a)` (R56): the value a read would return, and no effect. -/
def peek (a : Word) (s : State) : Byte := (memRead a s).1

/-- `ppuaddr_write(v)` (R60): high byte first, the other byte kept, the phase toggled. -/
def ppuAddrWrite (v : Byte) (s : State) : State :=
  { s with
    vaddr := if s.w then word (hiByte s.vaddr) v else word v (loByte s.vaddr)
    w := !s.w }

/-- The VRAM address increment, by PPUCTRL bit 2 (R61, 10_state.md R35). -/
def vramIncrement (s : State) : Word := if (cell s ppuCtrl).getLsbD 2 then 32 else 1

/-- `ppudata_write(v)` (R61). -/
def ppuDataWrite (v : Byte) (s : State) : State :=
  let s' := setVramCell (s.vaddr.toNat % vramBytes) v s
  { s' with vaddr := s.vaddr + vramIncrement s }

/-- `MemWrite(a, 1, v)` (R57 to R62). -/
def memWrite (a : Word) (v : Byte) (s : State) : State :=
  match region a with
  | .store => setCell a v s
  | .rom => s
  | .ppuReg =>
    let r := ppuRegOf a
    let s' := setCell r v s
    if r = ppuAddr then ppuAddrWrite v s'
    else if r = ppuData then ppuDataWrite v s'
    else s'

/-! ## Registers and status -/

/-- The four 8-bit registers (10_state.md R20). -/
inductive Reg where
  | a
  | x
  | y
  | sp
deriving DecidableEq, Repr

def getReg (r : Reg) (s : State) : Byte :=
  match r with
  | .a => s.a
  | .x => s.x
  | .y => s.y
  | .sp => s.sp

/-- `R <- v` (00_scope.md R12). -/
def setReg (r : Reg) (v : Byte) (s : State) : State :=
  match r with
  | .a => { s with a := v }
  | .x => { s with x := v }
  | .y => { s with y := v }
  | .sp => { s with sp := v }

/-- `PC <- v`. -/
def setPC (v : Word) (s : State) : State := { s with pc := v }

/-- P as a whole. -/
def setFlags (p : Flags) (s : State) : State := { s with p := p }

/-- `setZN(v)` (00_scope.md R12, 42_alu.md R160): both flags written, set or cleared. -/
def Flags.setZN (v : Byte) (p : Flags) : Flags := { p with z := decide (v = 0), n := v.getLsbD 7 }

/-- `setZN(v)` on the state. -/
def setZN (v : Byte) (s : State) : State := setFlags (s.p.setZN v) s

/-- `Pbyte()` (R26): N V 1 B D I Z C from bit 7 down. -/
def Flags.toByte (p : Flags) : Byte :=
  BitVec.ofBool p.n ++ BitVec.ofBool p.v ++ 1#1 ++ BitVec.ofBool p.b ++ BitVec.ofBool p.d
    ++ BitVec.ofBool p.i ++ BitVec.ofBool p.z ++ BitVec.ofBool p.c

/-- `setP(b)` (R27): bit 5 is ignored. -/
def Flags.ofByte (b : Byte) : Flags :=
  { n := b.getLsbD 7, v := b.getLsbD 6, b := b.getLsbD 4, d := b.getLsbD 3, i := b.getLsbD 2,
    z := b.getLsbD 1, c := b.getLsbD 0 }

/-! ## Stack -/

/-- The absolute stack address (R23). -/
def stackAddr (sp : Byte) : Word := 0x0100 + zext16 sp

/-- `push(v)` (R31): write at the current SP, then decrement. -/
def push (v : Byte) (s : State) : State :=
  let s' := memWrite (stackAddr s.sp) v s
  { s' with sp := s'.sp - 1 }

/-- `pull()` (R32): increment, then read. -/
def pull (s : State) : Byte × State :=
  let s' := { s with sp := s.sp + 1 }
  memRead (stackAddr s'.sp) s'

/-- Push a 16-bit value, high byte first (20_memory.md R64). -/
def pushWord (v : Word) (s : State) : State := push (loByte v) (push (hiByte v) s)

/-- Pull a 16-bit value, low byte first (R64). -/
def pullWord (s : State) : Word × State :=
  let (lo, s1) := pull s
  let (hi, s2) := pull s1
  (word hi lo, s2)

/-! ## Fetching -/

/-- `fetch8()` (00_scope.md R14): a bus read at PC, then PC + 1. -/
def fetch8 (s : State) : Byte × State :=
  let (b, s') := memRead s.pc s
  (b, { s' with pc := s'.pc + 1 })

/-- The state after the bus fetch of one operand byte, whose value the decoder has put into the
instruction. -/
def fetched1 (s : State) : State := (fetch8 s).2

/-- The state after `fetch16()` of an operand, low byte first. -/
def fetched2 (s : State) : State := fetched1 (fetched1 s)

/-- Two bus reads that give a 16-bit value, low byte first. -/
def readPair (loAddr hiAddr : Word) (s : State) : Word × State :=
  let (lo, s1) := memRead loAddr s
  let (hi, s2) := memRead hiAddr s1
  (word hi lo, s2)

/-! ## Traps and faults -/

/-- The IRQ/BRK vector (20_memory.md R68). -/
def brkVectorLo : Word := 0xFFFE
def brkVectorHi : Word := 0xFFFF

/-- Trap entry, taken by BRK alone (60_exceptions.md R244, 43_control.md R203): push the return
address and `Pbyte() | 0x10`, set B and I, load PC from the vector. -/
def enterTrap (ret : Word) (s : State) : State :=
  let s1 := push (s.p.toByte ||| 0x10) (pushWord ret s)
  let s2 := setFlags { s1.p with b := true, i := true } s1
  let (target, s3) := readPair brkVectorLo brkVectorHi s2
  setPC target s3

/-- Trap return, RTI (R245, 43_control.md R204): P from the pulled byte, then PC, with no +1. -/
def leaveTrap (s : State) : State :=
  let (b, s1) := pull s
  let (target, s2) := pullWord (setFlags (Flags.ofByte b) s1)
  setPC target s2

/-- The undocumented-opcode fault (44_stack_flags_misc.md R223): PC back on the opcode, `faulted`
set, the opcode recorded. Runs in the state after the opcode fetch. -/
def raiseUndoc (op : Byte) (s : State) : State :=
  { s with pc := s.pc - 1, faulted := true, faultReason := some op }

end Sys2Proof.Machine
end

