-- ==== Sys2Proof/Machine/Flags.lean ====
section
/-! DEFINITION. The results and flag computations of the ALU (42_alu.md), as functions of the
operands and P: sums are taken as natural numbers and narrowed at the end. -/

namespace Sys2Proof.Machine

/-- An 8-bit result with the carry and overflow it leaves. -/
structure AluResult where
  value : Byte
  carry : Bool
  overflow : Bool
deriving DecidableEq, Repr

/-- ADC (R164): `A + m + C`; D is not read. -/
def addWithCarry (a m : Byte) (c : Bool) : AluResult :=
  let s := a.toNat + m.toNat + c.toNat
  let r : Byte := BitVec.ofNat 8 s
  { value := r, carry := decide (s > 0xFF), overflow := ((a ^^^ r) &&& (m ^^^ r) &&& 0x80) != 0 }

/-- SBC (R165): `A + ~m + C`, where C is the absence of a borrow. -/
def subWithBorrow (a m : Byte) (c : Bool) : AluResult :=
  let s := a.toNat + (m ^^^ 0xFF).toNat + c.toNat
  let r : Byte := BitVec.ofNat 8 s
  { value := r, carry := decide (s > 0xFF), overflow := ((a ^^^ m) &&& (a ^^^ r) &&& 0x80) != 0 }

/-- C, V, Z and N of ADC and SBC. -/
def Flags.setArith (r : AluResult) (p : Flags) : Flags :=
  { (p.setZN r.value) with c := r.carry, v := r.overflow }

/-- C, Z and N of CMP, CPX and CPY (R166): register minus memory, nothing stored. -/
def Flags.setCompare (reg m : Byte) (p : Flags) : Flags :=
  { p with c := decide (m.toNat ≤ reg.toNat), z := decide (reg = m), n := (reg - m).getLsbD 7 }

/-- Z, V and N of BIT (R169): V and N come from the memory byte. -/
def Flags.setBit (a m : Byte) (p : Flags) : Flags :=
  { p with z := decide (a &&& m = 0), v := m.getLsbD 6, n := m.getLsbD 7 }

/-- ASL (R176). -/
def shiftLeft (v : Byte) (p : Flags) : Byte × Flags :=
  let r := v <<< 1
  (r, { (p.setZN r) with c := v.getLsbD 7 })

/-- LSR (R177). -/
def shiftRight (v : Byte) (p : Flags) : Byte × Flags :=
  let r := v >>> 1
  (r, { (p.setZN r) with c := v.getLsbD 0 })

/-- ROL (R178): the old carry enters bit 0. -/
def rotateLeft (v : Byte) (p : Flags) : Byte × Flags :=
  let r := v <<< 1 ||| (BitVec.ofBool p.c).setWidth 8
  (r, { (p.setZN r) with c := v.getLsbD 7 })

/-- ROR (R179): the old carry enters bit 7. -/
def rotateRight (v : Byte) (p : Flags) : Byte × Flags :=
  let r := v >>> 1 ||| (BitVec.ofBool p.c).setWidth 8 <<< 7
  (r, { (p.setZN r) with c := v.getLsbD 0 })

/-- INC (R170): the result sets Z and N. -/
def increment (v : Byte) (p : Flags) : Byte × Flags := (v + 1, p.setZN (v + 1))

/-- DEC (R171). -/
def decrement (v : Byte) (p : Flags) : Byte × Flags := (v - 1, p.setZN (v - 1))

end Sys2Proof.Machine
end

