-- ==== Sys2Proof/Machine/Operands.lean ====
section
/-! DEFINITION. The addressing-mode resolvers of 40_addressing.md. Each runs after the opcode fetch,
with PC at the first operand byte, and makes the operand fetches and pointer reads its rule lists;
the operand's value is the one the instruction carries (DEDUCED, log entry 9). -/

namespace Sys2Proof.Machine

/-- What a resolver returns: the effective address, whether a page was crossed, and the state after
its bus accesses. -/
structure Resolved where
  ea : Word
  crossed : Bool
  state : State
deriving DecidableEq, Repr

/-- R123. -/
def resolveZeroPage (b : Byte) (s : State) : Resolved := ⟨zext16 b, false, fetched1 s⟩

/-- R124 and R125: the sum with the index stays in page 0. -/
def resolveZeroPageIndexed (b index : Byte) (s : State) : Resolved :=
  ⟨zext16 (b + index), false, fetched1 s⟩

/-- R126. -/
def resolveAbsolute (a : Word) (s : State) : Resolved := ⟨a, false, fetched2 s⟩

/-- R127 and R128: a 16-bit sum, crossed when the pages of base and sum differ. -/
def resolveAbsoluteIndexed (a : Word) (index : Byte) (s : State) : Resolved :=
  let ea := a + zext16 index
  ⟨ea, !samePage a ea, fetched2 s⟩

/-- R129: the pointer and its second byte stay in page 0. -/
def resolveIndexedIndirect (b : Byte) (s : State) : Resolved :=
  let z := b + s.x
  let (ea, s') := readPair (zext16 z) (zext16 (z + 1)) (fetched1 s)
  ⟨ea, false, s'⟩

/-- R130: Y is added to the pointer as a 16-bit sum. -/
def resolveIndirectIndexed (b : Byte) (s : State) : Resolved :=
  let (base, s') := readPair (zext16 b) (zext16 (b + 1)) (fetched1 s)
  let ea := base + zext16 s.y
  ⟨ea, !samePage base ea, s'⟩

/-- The resolver of a memory operand. -/
def resolve (m : MemOperand) (s : State) : Resolved :=
  match m with
  | .zeroPage b => resolveZeroPage b s
  | .zeroPageX b => resolveZeroPageIndexed b s.x s
  | .zeroPageY b => resolveZeroPageIndexed b s.y s
  | .absolute a => resolveAbsolute a s
  | .absoluteX a => resolveAbsoluteIndexed a s.x s
  | .absoluteY a => resolveAbsoluteIndexed a s.y s
  | .indexedIndirect b => resolveIndexedIndirect b s
  | .indirectIndexed b => resolveIndirectIndexed b s

/-- R131, run whether or not the branch is taken: PC is past the displacement afterwards. -/
def resolveRelative (d : Byte) (s : State) : Resolved :=
  let s' := fetched1 s
  let target := s'.pc + sext16 d
  ⟨target, !samePage s'.pc target, s'⟩

/-- The address of a pointer's high byte: only the low byte is incremented (R132, D10). -/
def nextInPage (p : Word) : Word := word (hiByte p) (loByte p + 1)

/-- R126 and R132: the target of JMP. -/
def resolveJump (o : JumpOperand) (s : State) : Resolved :=
  match o with
  | .absolute a => resolveAbsolute a s
  | .indirect p =>
    let (ea, s') := readPair p (nextInPage p) (fetched2 s)
    ⟨ea, false, s'⟩

/-- The read-class access (R134): the operand byte and the state after reading it. An immediate
byte is itself the operand, read by the bus at its place after the opcode (R122). -/
def readOperand (o : ReadOperand) (s : State) : Byte × State :=
  match o with
  | .immediate b => (b, fetched1 s)
  | .memory m =>
    let r := resolve m s
    memRead r.ea r.state

/-- The write-class access (R134): one write and no read. -/
def writeOperand (m : MemOperand) (v : Byte) (s : State) : State :=
  let r := resolve m s
  memWrite r.ea v r.state

/-- The read-modify-write access (R134): one read, then one write of the result, and the flags the
operation leaves. -/
def modifyOperand (f : Byte → Flags → Byte × Flags) (m : MemOperand) (s : State) : State :=
  let r := resolve m s
  let (v, s1) := memRead r.ea r.state
  let (v', p') := f v s1.p
  setFlags p' (memWrite r.ea v' s1)

/-- The operand bytes of an undocumented opcode (44_stack_flags_misc.md R222): consumed by the
resolver of its mode, with no access at the effective address. The resolver of the immediate mode
makes no bus access (R122), so that byte is passed over unread (DEDUCED, log entry 6). -/
def passOperand (o : UndocOperand) (s : State) : State :=
  match o with
  | .implied => s
  | .immediate _ => setPC (s.pc + 1) s
  | .memory m => (resolve m s).state

end Sys2Proof.Machine
end

