-- ==== Sys2Proof/Machine/Alu.lean ====
section
/-! DEFINITION. Logic, arithmetic, compares, bit test, increments and decrements, shifts and rotates
(42_alu.md). -/

namespace Sys2Proof.Machine

/-- ORA, AND, EOR: combine A with the operand, set Z and N (R161 to R163). -/
def logic (f : Byte → Byte → Byte) (o : ReadOperand) (s : State) : State :=
  let (m, s') := readOperand o s
  let r := f s'.a m
  setZN r (setReg .a r s')

/-- ADC, SBC: A, C, V, Z and N from the sum (R164, R165). -/
def arith (f : Byte → Byte → Bool → AluResult) (o : ReadOperand) (s : State) : State :=
  let (m, s') := readOperand o s
  let r := f s'.a m s'.p.c
  setFlags (s'.p.setArith r) (setReg .a r.value s')

/-- CMP, CPX, CPY: C, Z and N from register minus operand (R166 to R168). -/
def compareReg (r : Reg) (o : ReadOperand) (s : State) : State :=
  let (m, s') := readOperand o s
  setFlags (s'.p.setCompare (getReg r s') m) s'

/-- BIT (R169). -/
def bitTest (o : MemOperand) (s : State) : State :=
  let (m, s') := readOperand (.memory o) s
  setFlags (s'.p.setBit s'.a m) s'

/-- An operation on a register that rewrites it and P. -/
def modifyReg (f : Byte → Flags → Byte × Flags) (r : Reg) (s : State) : State :=
  let (v, p) := f (getReg r s) s.p
  setFlags p (setReg r v s)

/-- A shift or rotate: A without a bus access (R121), or the memory cell. -/
def shift (f : Byte → Flags → Byte × Flags) (o : ShiftOperand) (s : State) : State :=
  match o with
  | .accumulator => modifyReg f .a s
  | .memory m => modifyOperand f m s

/-- R161. -/
def execOra (o : ReadOperand) (s : State) : Host.Outcome State Fault Refusal :=
  .next (logic (· ||| ·) o s)

/-- R162. -/
def execAnd (o : ReadOperand) (s : State) : Host.Outcome State Fault Refusal :=
  .next (logic (· &&& ·) o s)

/-- R163. -/
def execEor (o : ReadOperand) (s : State) : Host.Outcome State Fault Refusal :=
  .next (logic (· ^^^ ·) o s)

/-- R164. -/
def execAdc (o : ReadOperand) (s : State) : Host.Outcome State Fault Refusal :=
  .next (arith addWithCarry o s)

/-- R165. -/
def execSbc (o : ReadOperand) (s : State) : Host.Outcome State Fault Refusal :=
  .next (arith subWithBorrow o s)

/-- R166. -/
def execCmp (o : ReadOperand) (s : State) : Host.Outcome State Fault Refusal :=
  .next (compareReg .a o s)

/-- R167. -/
def execCpx (o : ReadOperand) (s : State) : Host.Outcome State Fault Refusal :=
  .next (compareReg .x o s)

/-- R168. -/
def execCpy (o : ReadOperand) (s : State) : Host.Outcome State Fault Refusal :=
  .next (compareReg .y o s)

/-- R169. -/
def execBit (m : MemOperand) (s : State) : Host.Outcome State Fault Refusal :=
  .next (bitTest m s)

/-- R170. -/
def execInc (m : MemOperand) (s : State) : Host.Outcome State Fault Refusal :=
  .next (modifyOperand increment m s)

/-- R171. -/
def execDec (m : MemOperand) (s : State) : Host.Outcome State Fault Refusal :=
  .next (modifyOperand decrement m s)

/-- R172. -/
def execInx (s : State) : Host.Outcome State Fault Refusal :=
  .next (modifyReg increment .x s)

/-- R173. -/
def execIny (s : State) : Host.Outcome State Fault Refusal :=
  .next (modifyReg increment .y s)

/-- R174. -/
def execDex (s : State) : Host.Outcome State Fault Refusal :=
  .next (modifyReg decrement .x s)

/-- R175. -/
def execDey (s : State) : Host.Outcome State Fault Refusal :=
  .next (modifyReg decrement .y s)

/-- R176. -/
def execAsl (o : ShiftOperand) (s : State) : Host.Outcome State Fault Refusal :=
  .next (shift shiftLeft o s)

/-- R177. -/
def execLsr (o : ShiftOperand) (s : State) : Host.Outcome State Fault Refusal :=
  .next (shift shiftRight o s)

/-- R178. -/
def execRol (o : ShiftOperand) (s : State) : Host.Outcome State Fault Refusal :=
  .next (shift rotateLeft o s)

/-- R179. -/
def execRor (o : ShiftOperand) (s : State) : Host.Outcome State Fault Refusal :=
  .next (shift rotateRight o s)

end Sys2Proof.Machine
end

