-- ==== Sys2Proof/Machine/Control.lean ====
section
/-! DEFINITION. Branches, jumps, subroutines, BRK and RTI (43_control.md). A meaning starts in the
state after the opcode fetch, so PC is the opcode address + 1. -/

namespace Sys2Proof.Machine

/-- The common branch rule (R190): the displacement is consumed in either case. -/
def branch (taken : Bool) (d : Byte) (s : State) : State :=
  let r := resolveRelative d s
  if taken then setPC r.ea r.state else r.state

/-- R191. -/
def execBpl (d : Byte) (s : State) : Host.Outcome State Fault Refusal :=
  .next (branch (!s.p.n) d s)

/-- R192. -/
def execBmi (d : Byte) (s : State) : Host.Outcome State Fault Refusal :=
  .next (branch s.p.n d s)

/-- R193. -/
def execBvc (d : Byte) (s : State) : Host.Outcome State Fault Refusal :=
  .next (branch (!s.p.v) d s)

/-- R194. -/
def execBvs (d : Byte) (s : State) : Host.Outcome State Fault Refusal :=
  .next (branch s.p.v d s)

/-- R195. -/
def execBcc (d : Byte) (s : State) : Host.Outcome State Fault Refusal :=
  .next (branch (!s.p.c) d s)

/-- R196. -/
def execBcs (d : Byte) (s : State) : Host.Outcome State Fault Refusal :=
  .next (branch s.p.c d s)

/-- R197. -/
def execBne (d : Byte) (s : State) : Host.Outcome State Fault Refusal :=
  .next (branch (!s.p.z) d s)

/-- R198. -/
def execBeq (d : Byte) (s : State) : Host.Outcome State Fault Refusal :=
  .next (branch s.p.z d s)

/-- JMP: PC takes the resolved target (R199, R200). -/
def jumpTo (o : JumpOperand) (s : State) : State :=
  let r := resolveJump o s
  setPC r.ea r.state

/-- JSR: push the address of the instruction's last byte, then jump (R201). -/
def callSubroutine (a : Word) (s : State) : State :=
  let r := resolveAbsolute a s
  setPC r.ea (pushWord (r.state.pc - 1) r.state)

/-- RTS: pull the pushed address and go past it (R202). -/
def returnSubroutine (s : State) : State :=
  let (ret, s') := pullWord s
  setPC (ret + 1) s'

/-- R199 and R200. -/
def execJmp (o : JumpOperand) (s : State) : Host.Outcome State Fault Refusal :=
  .next (jumpTo o s)

/-- R201. -/
def execJsr (a : Word) (s : State) : Host.Outcome State Fault Refusal :=
  .next (callSubroutine a s)

/-- R202. -/
def execRts (s : State) : Host.Outcome State Fault Refusal :=
  .next (returnSubroutine s)

/-- R203: the address pushed is `BRK_PC_OFFSET` past the opcode. -/
def execBrk (s : State) : Host.Outcome State Fault Refusal :=
  .next (enterTrap (s.pc - 1 + s.params.brkPcOffset.toWord) s)

/-- R204. -/
def execRti (s : State) : Host.Outcome State Fault Refusal :=
  .next (leaveTrap s)

end Sys2Proof.Machine
end

