-- ==== Sys2Proof/Machine/LoadStore.lean ====
section
/-! DEFINITION. Loads, stores and register transfers (41_load_store_transfer.md). -/

namespace Sys2Proof.Machine

/-- LDA, LDX, LDY: read, write the register, set Z and N. -/
def load (r : Reg) (o : ReadOperand) (s : State) : State :=
  let (v, s') := readOperand o s
  setZN v (setReg r v s')

/-- A transfer that sets Z and N from its destination. -/
def transfer (src dst : Reg) (s : State) : State :=
  setZN (getReg src s) (setReg dst (getReg src s) s)

/-- R140. -/
def execLda (o : ReadOperand) (s : State) : Host.Outcome State Fault Refusal :=
  .next (load .a o s)

/-- R141. -/
def execLdx (o : ReadOperand) (s : State) : Host.Outcome State Fault Refusal :=
  .next (load .x o s)

/-- R142. -/
def execLdy (o : ReadOperand) (s : State) : Host.Outcome State Fault Refusal :=
  .next (load .y o s)

/-- R143. -/
def execSta (m : MemOperand) (s : State) : Host.Outcome State Fault Refusal :=
  .next (writeOperand m s.a s)

/-- R144. -/
def execStx (m : MemOperand) (s : State) : Host.Outcome State Fault Refusal :=
  .next (writeOperand m s.x s)

/-- R145. -/
def execSty (m : MemOperand) (s : State) : Host.Outcome State Fault Refusal :=
  .next (writeOperand m s.y s)

/-- R146. -/
def execTax (s : State) : Host.Outcome State Fault Refusal :=
  .next (transfer .a .x s)

/-- R147. -/
def execTay (s : State) : Host.Outcome State Fault Refusal :=
  .next (transfer .a .y s)

/-- R148. -/
def execTxa (s : State) : Host.Outcome State Fault Refusal :=
  .next (transfer .x .a s)

/-- R149. -/
def execTya (s : State) : Host.Outcome State Fault Refusal :=
  .next (transfer .y .a s)

/-- R150. -/
def execTsx (s : State) : Host.Outcome State Fault Refusal :=
  .next (transfer .sp .x s)

/-- R151: no flag is written. -/
def execTxs (s : State) : Host.Outcome State Fault Refusal :=
  .next (setReg .sp s.x s)

end Sys2Proof.Machine
end

