-- ==== Sys2Proof/Machine/StackFlags.lean ====
section
/-! DEFINITION. Stack, flag and no-operation instructions (44_stack_flags_misc.md). -/

namespace Sys2Proof.Machine

/-- PLA: pull into A, set Z and N (R212). -/
def pullA (s : State) : State :=
  let (v, s') := pull s
  setZN v (setReg .a v s')

/-- PLP: pull into P (R213). -/
def pullFlags (s : State) : State :=
  let (v, s') := pull s
  setFlags (Flags.ofByte v) s'

/-- R210. -/
def execPha (s : State) : Host.Outcome State Fault Refusal :=
  .next (push s.a s)

/-- R211: bit 4 of the pushed copy is forced to 1. -/
def execPhp (s : State) : Host.Outcome State Fault Refusal :=
  .next (push (s.p.toByte ||| 0x10) s)

/-- R212. -/
def execPla (s : State) : Host.Outcome State Fault Refusal :=
  .next (pullA s)

/-- R213. -/
def execPlp (s : State) : Host.Outcome State Fault Refusal :=
  .next (pullFlags s)

/-- R214. -/
def execClc (s : State) : Host.Outcome State Fault Refusal :=
  .next (setFlags { s.p with c := false } s)

/-- R215. -/
def execSec (s : State) : Host.Outcome State Fault Refusal :=
  .next (setFlags { s.p with c := true } s)

/-- R216. -/
def execCli (s : State) : Host.Outcome State Fault Refusal :=
  .next (setFlags { s.p with i := false } s)

/-- R217. -/
def execSei (s : State) : Host.Outcome State Fault Refusal :=
  .next (setFlags { s.p with i := true } s)

/-- R218. -/
def execClv (s : State) : Host.Outcome State Fault Refusal :=
  .next (setFlags { s.p with v := false } s)

/-- R219. -/
def execCld (s : State) : Host.Outcome State Fault Refusal :=
  .next (setFlags { s.p with d := false } s)

/-- R220. -/
def execSed (s : State) : Host.Outcome State Fault Refusal :=
  .next (setFlags { s.p with d := true } s)

/-- R221. -/
def execNop (s : State) : Host.Outcome State Fault Refusal :=
  .next s

end Sys2Proof.Machine
end

