-- ==== Sys2Proof/Machine/Undoc.lean ====
section
/-! DEFINITION. The undocumented opcodes (44_stack_flags_misc.md R222 to R225). -/

namespace Sys2Proof.Machine

/-- Under `nop` the operand bytes are consumed and nothing else happens (R222); under `fault` the
block enters the faulted state with no operand fetched (R223). -/
def execUndoc (op : Byte) (o : UndocOperand) (s : State) : Host.Outcome State Fault Refusal :=
  match s.params.undocPolicy with
  | .nop => .next (passOperand o s)
  | .fault => .next (raiseUndoc op s)

end Sys2Proof.Machine
end

