-- ==== Sys2Proof/Machine/Timing.lean ====
section
/-! DEFINITION. Cycle counts (70_reset_and_hazards.md R281 to R284, 44_stack_flags_misc.md R224) and
the scanline timer (60_exceptions.md R253 to R255). -/

namespace Sys2Proof.Machine

/-! ## Cycle counts -/

/-- The row of a read-class instruction in R282. No read instruction has zp,Y but LDX. -/
def readCycles : Mode → Nat
  | .immediate => 2
  | .zeroPage => 3
  | .zeroPageX | .zeroPageY | .absolute | .absoluteX | .absoluteY => 4
  | .indexedIndirect => 6
  | .indirectIndexed => 5
  | .implied | .accumulator | .relative | .absoluteIndirect => 2

/-- The row of a store in R282. -/
def writeCycles : MemOperand → Nat
  | .zeroPage _ => 3
  | .zeroPageX _ | .zeroPageY _ | .absolute _ => 4
  | .absoluteX _ | .absoluteY _ => 5
  | .indexedIndirect _ | .indirectIndexed _ => 6

/-- The row of INC, DEC and the memory forms of the shifts in R282, which have the zp, zp,X, abs and
abs,X columns; the other modes have no opcode. -/
def modifyCycles : MemOperand → Nat
  | .zeroPage _ => 5
  | .zeroPageX _ | .zeroPageY _ | .absolute _ => 6
  | .absoluteX _ | .absoluteY _ => 7
  | .indexedIndirect _ | .indirectIndexed _ => 8

/-- The row of a shift or rotate in R282. -/
def shiftCycles : ShiftOperand → Nat
  | .accumulator => 2
  | .memory m => modifyCycles m

/-- `base(op)` (R282; R224 for the undocumented opcodes). -/
def baseCycles (i : Instr) : Nat :=
  match i with
  | .lda o | .ldx o | .ldy o | .ora o | .and o | .eor o | .adc o | .sbc o | .cmp o | .cpx o
  | .cpy o => readCycles o.mode
  | .bit m => readCycles m.mode
  | .sta m | .stx m | .sty m => writeCycles m
  | .inc m | .dec m => modifyCycles m
  | .asl o | .lsr o | .rol o | .ror o => shiftCycles o
  | .bpl _ | .bmi _ | .bvc _ | .bvs _ | .bcc _ | .bcs _ | .bne _ | .beq _ => 2
  | .jmp (.absolute _) => 3
  | .jmp (.indirect _) => 5
  | .jsr _ | .rts | .rti => 6
  | .brk => 7
  | .pha | .php => 3
  | .pla | .plp => 4
  | .tax | .tay | .txa | .tya | .tsx | .txs | .inx | .iny | .dex | .dey | .clc | .sec | .cli
  | .sei | .clv | .cld | .sed | .nop => 2
  | .undoc op _ => undocCycles op

/-- The `crossed` output of a memory operand's resolver. -/
def memCrossed (m : MemOperand) (s : State) : Bool := (resolve m s).crossed

/-- `page(op, crossed)` (R283): the read-class instructions in abs,X, abs,Y and (zp),Y, and the
undocumented opcodes so marked. -/
def pagePenalty (i : Instr) (s : State) : Nat :=
  match i with
  | .lda (.memory m) | .ldx (.memory m) | .ldy (.memory m) | .ora (.memory m) | .and (.memory m)
  | .eor (.memory m) | .adc (.memory m) | .sbc (.memory m) | .cmp (.memory m) =>
    (memCrossed m s).toNat
  | .undoc op (.memory m) => (undocPenalty op && memCrossed m s).toNat
  | _ => 0

/-- Whether a branch is taken (R191 to R198); no other instruction is. -/
def branchTaken (i : Instr) (p : Flags) : Bool :=
  match i with
  | .bpl _ => !p.n
  | .bmi _ => p.n
  | .bvc _ => !p.v
  | .bvs _ => p.v
  | .bcc _ => !p.c
  | .bcs _ => p.c
  | .bne _ => !p.z
  | .beq _ => p.z
  | _ => false

/-- `branch(op, taken, crossed)` (R284). -/
def branchPenalty (i : Instr) (s : State) : Nat :=
  match i with
  | .bpl d | .bmi d | .bvc d | .bvs d | .bcc d | .bcs d | .bne d | .beq d =>
    if branchTaken i s.p then 1 + (resolveRelative d s).crossed.toNat else 0
  | _ => 0

/-- The cycle count of an instruction (R281), in the state after its opcode fetch. -/
def cycles (i : Instr) (s : State) : Nat := baseCycles i + pagePenalty i s + branchPenalty i s

/-! ## The scanline timer -/

/-- One PPU cycle of the timer (R253): vertical blank is set on reaching scanline 241 (R254) and
cleared at the frame wrap (R255), by a direct write of the PPUSTATUS cell. -/
def ppuTick (s : State) : State :=
  let n := s.ppuCycle + 1
  let s' := if n = vblankCycle then setVblank s else s
  if n = frameCycles then { clearVblank s' with ppuCycle := 0 } else { s' with ppuCycle := n }

/-- The timer ticked a number of times. -/
def ppuTicks : Nat → State → State
  | 0, s => s
  | k + 1, s => ppuTicks k (ppuTick s)

/-- `ppu_update(c)` (R253): three PPU cycles for each CPU cycle. -/
def ppuUpdate (c : Nat) (s : State) : State := ppuTicks (3 * c) s

/-- The scanline number (60_exceptions.md R256). -/
def scanline (s : State) : Nat := s.ppuCycle / 341

/-- What the system step does after an instruction of `c` cycles (70_reset_and_hazards.md R280). -/
def accountCycles (c : Nat) (s : State) : State :=
  let s' := ppuUpdate c s
  { s' with cycleTotal := s'.cycleTotal + c }

end Sys2Proof.Machine
end

