-- ==== Sys2Proof/Machine/Fetch.lean ====
section
/-! DEFINITION. The FETCH and DECODE phases of 30_encoding.md R110, and the end of the system step
(70_reset_and_hazards.md R280). -/

namespace Sys2Proof.Machine

/-- The two bytes a fetch at PC would give, seen without a bus access. -/
def operandAhead (s : State) : Byte × Byte := (peek s.pc s, peek (s.pc + 1) s)

/-- FETCH and DECODE: the opcode is fetched through the bus; the operand bytes the instruction
carries are those its resolver then fetches. -/
def fetchInstr (s : State) : Instr × State :=
  let (op, s') := fetch8 s
  let (b1, b2) := operandAhead s'
  (decodeOp op b1 b2, s')

/-- After EXECUTE: no cycles when the instruction faulted, else the timer and the total (R280). -/
def finishStep (c : Nat) (s : State) : State :=
  if s.faulted then s else accountCycles c s

/-- Run one decoded instruction and account for its cycles. -/
def runInstr (i : Instr) (s : State) : Host.Outcome State Fault Refusal :=
  match exec i s with
  | .next s' => .next (finishStep (cycles i s) s')
  | .fault f => .fault f
  | .refused r => .refused r

/-- Store a byte where a fetch at `a` finds it. -/
def placeByte (a : Word) (b : Byte) (s : State) : State := setCell (cellOf a) b s

/-- Store an instruction, numbered as the opcode table numbers it, at PC. -/
def placeWord (nbits w : Nat) (s : State) : State :=
  placeByte s.pc (tableByte nbits w 0)
    (placeByte (s.pc + 1) (tableByte nbits w 1)
      (placeByte (s.pc + 2) (tableByte nbits w 2) s))

end Sys2Proof.Machine
end

