-- ==== Sys2Proof/Machine/Step.lean ====
section
/-! DEFINITION. The STEP transaction (70_reset_and_hazards.md R280, 30_encoding.md R110). -/

namespace Sys2Proof.Machine

/-- One system step. From the faulted state there is no transition (30_encoding.md R112). -/
def step (s : State) : Host.Outcome State Fault Refusal :=
  if s.faulted then .fault (.stopped s.faultReason)
  else runInstr (fetchInstr s).1 (fetchInstr s).2

/-- The state with an instruction placed where the next step fetches it, standing for a program
loaded from outside (DESIGN CHOICE, log entry 3). A faulted state makes no step, so the fault is
cleared too. -/
def State.withFetchWord (s : State) (nbits w : Nat) : State :=
  { placeWord nbits w s with faulted := false, faultReason := none }

end Sys2Proof.Machine
end

