-- ==== Sys2Proof/Machine/Reset.lean ====
section
/-! DEFINITION. CONFIGURE's check and the RESET transaction (20_memory.md R70 to R72,
70_reset_and_hazards.md R270 to R275). -/

namespace Sys2Proof.Machine

/-- Whether CONFIGURE accepts a cartridge (R70, 60_exceptions.md R249): mapper 0, 16 KiB of PRG, no
battery RAM, and an image that is neither malformed nor truncated. An accepted cartridge has 16384
PRG bytes (R70). -/
def accepts (cart : Cart) : Bool :=
  cart.mapper == 0 && cart.prgRomSizeKB == 16 && !cart.hasBatteryRAM && cart.imageOk
    && cart.prg.length == prgBytes

/-- A copy of ROM bytes as cells from a base address, in canonical form: an unlisted address reads
as the byte of `dflt`. -/
def romCells (dflt : Nat → Byte) (base : Nat) : List Byte → Memory
  | [] => []
  | b :: rest =>
    if b = dflt base then romCells dflt (base + 1) rest
    else (base, b) :: romCells dflt (base + 1) rest

/-- `bus_reset()` (R271, R71): zero fill, both PRG copies, PPUSTATUS at its power-up value. -/
def busReset (cart : Cart) (s : State) : State :=
  let prg := cart.prg.take prgBytes
  setCell ppuStatus 0xA0
    { s with mem := romCells memDefault 0x8000 prg ++ romCells memDefault 0xC000 prg }

/-- `ppu_reset()` (R272, R72): VRAM zero filled, then CHR, the status bits, and the port. -/
def ppuReset (cart : Cart) (s : State) : State :=
  let s' := setCell ppuStatus (cell s ppuStatus ||| 0xA0) s
  { s' with
    vram := romCells vramDefault 0 (cart.chr.take vramBytes)
    w := false
    vaddr := 0x0000
    ppuCycle := 0 }

/-- The reset vector (20_memory.md R68). -/
def resetVectorLo : Word := 0xFFFC
def resetVectorHi : Word := 0xFFFD

/-- `cpu_reset()` (R273): the vector is read from the cells the bus reset has filled. -/
def cpuReset (s : State) : State :=
  { s with
    a := 0x00
    x := 0x00
    y := 0x00
    sp := 0xFD
    p := Flags.ofByte 0x34
    pc := word (cell s resetVectorHi) (cell s resetVectorLo) }

/-- `RESET()` (R270): bus, PPU, CPU, then SYS. The parameters are not state and stay. -/
def reset (cart : Cart) (s : State) : State :=
  { cpuReset (ppuReset cart (busReset cart s)) with
    faulted := false
    faultReason := none
    cycleTotal := 0 }

/-- The cartridge that `State.reset` stands for: an accepted one with an all-zero PRG image and no
CHR ROM (DESIGN CHOICE, log entry 2). -/
def blankCart : Cart :=
  { mapper := 0, prgRomSizeKB := 16, chrRomSizeKB := 0, hasBatteryRAM := false, hasTrainer := false,
    mirroring := 0, prg := List.replicate prgBytes 0, chr := [], imageOk := true }

end Sys2Proof.Machine
end

