-- ==== Sys2Proof/Machine/Block.lean ====
section
/-! DEFINITION. The block as its host sees it: the four transactions of 00_scope.md R7 over a block
that may not have a state yet (10_state.md R46, 60_exceptions.md R249, R262, R263). -/

namespace Sys2Proof.Machine

/-- The block's life: no cartridge, a failed CONFIGURE, a cartridge and no RESET yet, running. -/
inductive Block where
  | unconfigured
  | loadFailed
  | configured (cart : Cart) (params : Params)
  | running (cart : Cart) (s : State)
deriving DecidableEq, Repr

/-- `CONFIGURE(cart)` (R70, R249): once, before the first RESET (R263). The parameters of R9 are
given with it. -/
def Block.configure (cart : Cart) (params : Params) : Block → Host.Outcome Block Fault Refusal
  | .unconfigured => .next (if accepts cart then .configured cart params else .loadFailed)
  | .loadFailed => .refused .noCartridge
  | .configured .. | .running .. => .refused .alreadyConfigured

/-- `RESET()` (R270): accepted at any time after a successful CONFIGURE, the faulted state
included; power-up and reset are one transaction (R275), so the first RESET starts from the value
every RESET leaves. -/
def Block.reset : Block → Host.Outcome Block Fault Refusal
  | .unconfigured | .loadFailed => .refused .noCartridge
  | .configured cart params =>
    .next (.running cart (Machine.reset cart { State.reset with params := params }))
  | .running cart s => .next (.running cart (Machine.reset cart s))

/-- `STEP()` (R280), with the cycle count it returns; refused before the first RESET (R46). The step
that enters the faulted state returns no count (44_stack_flags_misc.md R223). -/
def Block.step : Block → Host.Outcome (Block × Option Nat) Fault Refusal
  | .unconfigured | .loadFailed => .refused .noCartridge
  | .configured .. => .refused .beforeReset
  | .running cart s =>
    match Machine.step s with
    | .next s' =>
      .next (.running cart s', if s'.faulted then none else some (s'.cycleTotal - s.cycleTotal))
    | .fault f => .fault f
    | .refused r => .refused r

/-- What the inspection port may be asked for (60_exceptions.md R262). -/
inductive Query where
  | reg (r : Reg)
  | pc
  | flags
  | statusByte
  | peek (a : Word)
  | vram (i : Fin vramBytes)
  | vaddr
  | w
  | ppuCycle
  | faulted
  | cycleTotal
deriving DecidableEq, Repr

/-- What the inspection port answers with. -/
inductive Answer where
  | byte (v : Byte)
  | word (v : Word)
  | flags (p : Flags)
  | bool (v : Bool)
  | count (n : Nat)
deriving DecidableEq, Repr

/-- `INSPECT_*` (R262): a function of the state that leaves it as it is. -/
def inspect (q : Query) (s : State) : Answer :=
  match q with
  | .reg r => .byte (getReg r s)
  | .pc => .word s.pc
  | .flags => .flags s.p
  | .statusByte => .byte s.p.toByte
  | .peek a => .byte (peek a s)
  | .vram i => .byte (vramCell s i.val)
  | .vaddr => .word s.vaddr
  | .w => .bool s.w
  | .ppuCycle => .count s.ppuCycle
  | .faulted => .bool s.faulted
  | .cycleTotal => .count s.cycleTotal

/-- `INSPECT_*` on the block: refused while it has no state (R249, D31). -/
def Block.inspect (q : Query) : Block → Host.Outcome Answer Fault Refusal
  | .unconfigured | .loadFailed => .refused .noCartridge
  | .configured .. => .refused .beforeReset
  | .running _ s => .next (Machine.inspect q s)

end Sys2Proof.Machine
end

