-- ==== Sys2Proof/Safety.lean ====
section
/-! DEFINITION. What counts as a sound state and a safe run, in the terms the statements use. -/

namespace Sys2Proof.Machine

/-- The invariants every transaction preserves (70_reset_and_hazards.md R278), less the one that P
bit 5 reads 1 (it is not stored), with the canonical form of the two memories and the agreement of
`faulted` with its reason, which are the model's own. -/
structure Sound (s : State) : Prop where
  memWf : Memory.wf s.mem
  vramWf : Memory.vramWf s.vram
  /-- `MEM[0x8000 + i] = MEM[0xC000 + i]`. -/
  romMirrored : ∀ i < prgBytes,
    readCell memDefault s.mem (0x8000 + i) = readCell memDefault s.mem (0xC000 + i)
  /-- `MEM[a] = 0x00` for `0x2008 <= a <= 0x3FFF`. -/
  windowZero : ∀ a, 0x2008 ≤ a → a ≤ 0x3FFF → readCell memDefault s.mem a = 0x00
  /-- `0 <= ppu_cycle < 89342`. -/
  ppuCycleBound : s.ppuCycle < frameCycles
  faultAgrees : s.faulted = s.faultReason.isSome

/-- The ROM of a state holds a PRG image in both copies (R278, 20_memory.md R63). -/
def HoldsPrg (prg : List Byte) (s : State) : Prop :=
  ∀ i, (h : i < prg.length) → i < prgBytes →
    readCell memDefault s.mem (0x8000 + i) = prg[i] ∧ readCell memDefault s.mem (0xC000 + i) = prg[i]

/-- `t` is `s` after bus reads: PC may differ, and bit 7 of PPUSTATUS may have been cleared
(20_memory.md R54, R55). Everything else is as it was. -/
def AfterReads (s t : State) : Prop := t = setPC t.pc s ∨ t = setPC t.pc (clearVblank s)

/-- How far a mode's operand bytes move PC past the opcode (30_encoding.md R91). -/
def operandSpan (m : Mode) : Word := BitVec.ofNat 16 (m.length - 1)

/-- One of a mode's operand bytes, the first of them at PC, lies in PPUSTATUS. -/
def operandInStatus (m : Mode) (s : State) : Bool :=
  (List.range (m.length - 1)).any fun k => cellOf (s.pc + BitVec.ofNat 16 k) == ppuStatus

/-- What PPUSTATUS holds after bus reads that reached it, or did not (20_memory.md R55). -/
def statusAfter (reached : Bool) (s : State) : Byte :=
  if reached then cell s ppuStatus &&& 0x7F else cell s ppuStatus

/-! ## Who writes what (10_state.md R21 to R23, R28) -/

/-- The writers of N and Z (R28). -/
def writesNZ : Instr → Bool
  | .ora _ | .and _ | .eor _ | .adc _ | .sbc _ | .cmp _ | .cpx _ | .cpy _ | .bit _ | .lda _ | .ldx _
  | .ldy _ | .tax | .tay | .txa | .tya | .tsx | .pla | .inc _ | .dec _ | .inx | .iny | .dex | .dey
  | .asl _ | .lsr _ | .rol _ | .ror _ | .plp | .rti => true
  | _ => false

/-- The writers of V (R28). -/
def writesV : Instr → Bool
  | .adc _ | .sbc _ | .bit _ | .clv | .plp | .rti => true
  | _ => false

/-- The writers of B (R28). -/
def writesB : Instr → Bool
  | .brk | .plp | .rti => true
  | _ => false

/-- The writers of D (R28). -/
def writesD : Instr → Bool
  | .cld | .sed | .plp | .rti => true
  | _ => false

/-- The writers of I (R28). -/
def writesI : Instr → Bool
  | .cli | .sei | .brk | .plp | .rti => true
  | _ => false

/-- The writers of C (R28). -/
def writesC : Instr → Bool
  | .adc _ | .sbc _ | .cmp _ | .cpx _ | .cpy _ | .asl _ | .lsr _ | .rol _ | .ror _ | .clc | .sec
  | .plp | .rti => true
  | _ => false

/-- The instructions whose destination is A (R21). -/
def writesA : Instr → Bool
  | .ora _ | .and _ | .eor _ | .adc _ | .sbc _ | .lda _ | .pla | .txa | .tya => true
  | .asl o | .lsr o | .rol o | .ror o => o == .accumulator
  | _ => false

/-- The writers of X (R22). -/
def writesX : Instr → Bool
  | .ldx _ | .tax | .tsx | .inx | .dex => true
  | _ => false

/-- The writers of Y (R22). -/
def writesY : Instr → Bool
  | .ldy _ | .tay | .iny | .dey => true
  | _ => false

/-- The writers of SP: TXS and every push and pull (R23). -/
def writesSP : Instr → Bool
  | .txs | .pha | .php | .pla | .plp | .jsr _ | .rts | .brk | .rti => true
  | .lda _ | .ldx _ | .ldy _ | .sta _ | .stx _ | .sty _ | .tax | .tay | .txa | .tya | .tsx | .ora _
  | .and _ | .eor _ | .adc _ | .sbc _ | .cmp _ | .cpx _ | .cpy _ | .bit _ | .inc _ | .dec _ | .inx
  | .iny | .dex | .dey | .asl _ | .lsr _ | .rol _ | .ror _ | .bpl _ | .bmi _ | .bvc _ | .bvs _
  | .bcc _ | .bcs _ | .bne _ | .beq _ | .jmp _ | .clc | .sec | .cli | .sei | .clv | .cld | .sed
  | .nop | .undoc _ _ => false

/-- The forms that make a bus write: stores, read-modify-writes on memory (40_addressing.md R134),
and pushes (R31). -/
def makesBusWrite : Instr → Bool
  | .sta _ | .stx _ | .sty _ | .inc _ | .dec _ | .pha | .php | .jsr _ | .brk => true
  | .asl o | .lsr o | .rol o | .ror o => o != .accumulator
  | .lda _ | .ldx _ | .ldy _ | .tax | .tay | .txa | .tya | .tsx | .txs | .ora _ | .and _ | .eor _
  | .adc _ | .sbc _ | .cmp _ | .cpx _ | .cpy _ | .bit _ | .inx | .iny | .dex | .dey | .bpl _ | .bmi _
  | .bvc _ | .bvs _ | .bcc _ | .bcs _ | .bne _ | .beq _ | .jmp _ | .rts | .rti | .pla | .plp | .clc
  | .sec | .cli | .sei | .clv | .cld | .sed | .nop | .undoc _ _ => false

/-! ## Runs -/

/-- Run until the host's `RUN_END` predicate holds (00_scope.md R9, D28) or the fuel is spent. -/
def runUntil (stop : State → Bool) : Nat → State → Host.Outcome State Fault Refusal
  | 0, s => .next s
  | k + 1, s =>
    if stop s then .next s
    else match step s with
      | .next s' => runUntil stop k s'
      | .fault f => .fault f
      | .refused r => .refused r

end Sys2Proof.Machine
end

