-- ==== Sys2Proof/WellFormed.lean ====
section
/-! DEFINITION. Which terms of `Instr` the hardware has an opcode for. Each line is the Encoding
part of the instruction's rule (41_load_store_transfer.md to 44_stack_flags_misc.md) as a list of
modes. -/

namespace Sys2Proof

/-- The eight modes of table `cc = 01` (30_encoding.md R96). -/
def groupOneModes : List Mode :=
  [.immediate, .zeroPage, .zeroPageX, .absolute, .absoluteX, .absoluteY, .indexedIndirect,
    .indirectIndexed]

/-- The modes of ASL, ROL, LSR, ROR (R97). -/
def shiftModes : List Mode := [.accumulator, .zeroPage, .zeroPageX, .absolute, .absoluteX]

/-- The check on an instruction: its mode is one the instruction is encoded with, and an `undoc`
names an undocumented opcode (R99) with the mode that R224 gives it. -/
def Instr.wellFormed (i : Instr) : Bool :=
  match i with
  | .lda o | .ora o | .and o | .eor o | .adc o | .sbc o | .cmp o => groupOneModes.contains o.mode
  | .ldx o => [Mode.immediate, .zeroPage, .zeroPageY, .absolute, .absoluteY].contains o.mode
  | .ldy o => [Mode.immediate, .zeroPage, .zeroPageX, .absolute, .absoluteX].contains o.mode
  | .cpx o | .cpy o => [Mode.immediate, .zeroPage, .absolute].contains o.mode
  | .sta m => (groupOneModes.erase .immediate).contains m.mode
  | .stx m => [Mode.zeroPage, .zeroPageY, .absolute].contains m.mode
  | .sty m => [Mode.zeroPage, .zeroPageX, .absolute].contains m.mode
  | .bit m => [Mode.zeroPage, .absolute].contains m.mode
  | .inc m | .dec m => [Mode.zeroPage, .zeroPageX, .absolute, .absoluteX].contains m.mode
  | .asl o | .lsr o | .rol o | .ror o => shiftModes.contains o.mode
  | .undoc op o => isUndocumented op && o.mode == undocMode op
  | .jmp _ | .jsr _ | .bpl _ | .bmi _ | .bvc _ | .bvs _ | .bcc _ | .bcs _ | .bne _ | .beq _
  | .tax | .tay | .txa | .tya | .tsx | .txs | .inx | .iny | .dex | .dey | .rts | .brk | .rti
  | .pha | .php | .pla | .plp | .clc | .sec | .cli | .sei | .clv | .cld | .sed | .nop => true

/-- The check as a proposition. -/
abbrev Instr.WellFormed (i : Instr) : Prop := i.wellFormed = true

end Sys2Proof
end

