-- ==== Sys2Proof/Certificates/Slice0/Obligations.lean ====
section
/-! DEFINITION. The statements for the provers, in the order of OBLIGATIONS.json. Each docstring
names the rules it formalises. A meaning runs in the state after the opcode fetch, so `s.pc` there
is the opcode address + 1. -/

open Sys2Proof Sys2Proof.Machine

/-! ## Encoding -/

/-- Every well-formed instruction, with every operand value, comes back from its own bytes
(30_encoding.md R91 to R99). -/
def Obligations.DecodeOfEncode : Prop :=
  ∀ (i : Instr) (rest : List Byte), i.WellFormed →
    ∃ bytes, encode i = some bytes ∧ bytes.length = i.length ∧
      decode (bytes ++ rest) = .ok (i, rest)

/-- The decoder is total: every opcode gives a well-formed instruction, whose encoding is the bytes
it was read from, so the opcode alone fixes the length (R91, R92, R103). The opcodes decoded as
undocumented are those of R99's list, 105 of the 256. -/
def Obligations.EncodeOfDecode : Prop :=
  (∀ op b1 b2 : Byte,
    (decodeOp op b1 b2).WellFormed ∧
    encode (decodeOp op b1 b2) = some ([op, b1, b2].take (decodeOp op b1 b2).length) ∧
    (decodeOp op b1 b2).length = (decodeOp op 0 0).length ∧
    (isUndocumented op = true ↔ ∃ o, decodeOp op b1 b2 = .undoc op o)) ∧
  ((List.range 256).filter fun n => isUndocumented (BitVec.ofNat 8 n)).length = 105

/-- R94: in a branch opcode, bits 7:6 select the flag among N, V, C, Z and bit 5 the polarity. -/
def Obligations.BranchOpcodeFields : Prop :=
  ∀ (op d b2 : Byte) (p : Flags), op &&& 0x1F = 0x10 →
    branchTaken (decodeOp op d b2) p =
      ((match (op.extractLsb' 6 2).toNat with
        | 0 => p.n
        | 1 => p.v
        | 2 => p.c
        | _ => p.z) == op.getLsbD 5) ∧
    (decodeOp op d b2).mode = .relative ∧ encode (decodeOp op d b2) = some [op, d]

/-- Words written out from the tables of R93 to R99, one or more for each family. -/
def Obligations.OpcodeWords : Prop :=
  decode [0xA9, 0x80] = .ok (.lda (.immediate 0x80), []) ∧
  decode [0xB6, 0xF0] = .ok (.ldx (.memory (.zeroPageY 0xF0)), []) ∧
  decode [0x91, 0x20] = .ok (.sta (.indirectIndexed 0x20), []) ∧
  decode [0x8A] = .ok (.txa, []) ∧
  decode [0x7D, 0xFF, 0x12] = .ok (.adc (.memory (.absoluteX 0x12FF)), []) ∧
  decode [0x2C, 0x02, 0x20] = .ok (.bit (.absolute 0x2002), []) ∧
  decode [0x4A] = .ok (.lsr .accumulator, []) ∧
  decode [0xF0, 0xFC] = .ok (.beq 0xFC, []) ∧
  decode [0x6C, 0xFF, 0x02] = .ok (.jmp (.indirect 0x02FF), []) ∧
  decode [0x20, 0x00, 0x90] = .ok (.jsr 0x9000, []) ∧
  decode [0x00] = .ok (.brk, []) ∧
  decode [0x28] = .ok (.plp, []) ∧
  decode [0xF8] = .ok (.sed, []) ∧
  decode [0xEA] = .ok (.nop, []) ∧
  decode [0x9E, 0x34, 0x12] = .ok (.undoc 0x9E (.memory (.absoluteY 0x1234)), []) ∧
  decode [] = .error .empty ∧
  decode [0xAD, 0x02] = .error .truncated

/-! ## The step -/

/-- A step runs the instruction that the bytes at PC decode to: `exec` of it in the state after the
opcode fetch, then the timer and the total, unless it faulted (30_encoding.md R110,
70_reset_and_hazards.md R280). -/
def Obligations.StepRunsDecodedInstruction : Prop :=
  ∀ (s : State) (i : Instr) (rest : List Byte), s.faulted = false →
    decode [peek s.pc s, peek (s.pc + 1) s, peek (s.pc + 2) s] = .ok (i, rest) →
    let u := (fetch8 s).2
    let c := cycles i u
    i.WellFormed ∧ u.pc = s.pc + 1 ∧ AfterReads s u ∧
    ∃ t, exec i u = .next t ∧
      step s = .next
        (if t.faulted then t
         else { ppuTicks (3 * c) t with cycleTotal := t.cycleTotal + c })

/-- A fetch is a bus read: it moves PC, it clears PPUSTATUS bit 7 exactly when PC lies in PPUSTATUS,
and it changes nothing else (R101, 20_memory.md R55, R83). The operand bytes an instruction carries
are the bytes its resolver then fetches. -/
def Obligations.OperandFetchesGiveTheDecodedBytes : Prop :=
  ∀ s : State,
    let s1 := (fetch8 s).2
    let s2 := (fetch8 s1).2
    fetched1 s = s1 ∧ fetched2 s = s2 ∧
    AfterReads s s1 ∧ s1.pc = s.pc + 1 ∧
    cell s1 ppuStatus = statusAfter (cellOf s.pc == ppuStatus) s ∧
    (fetch8 s).1 = peek s.pc s ∧
    (fetch8 s1).1 = peek (s.pc + 1) s ∧ (fetch8 s2).1 = peek (s.pc + 2) s ∧
    operandAhead s1 = ((fetch8 s1).1, (fetch8 s2).1)

/-- R112: from the faulted state there is no transition. -/
def Obligations.FaultedMakesNoStep : Prop :=
  ∀ s : State, s.faulted = true → step s = .fault (.stopped s.faultReason)

/-- 60_exceptions.md R240: no instruction traps on a condition, an address, a privilege or an opcode
value. Under `UNDOC_POLICY = nop` every one of them, with every operand, in every state, gives a
next state, and touches neither ROM, the timer, the total, the fault nor the parameters. -/
def Obligations.EveryInstructionCompletes : Prop :=
  ∀ (i : Instr) (s : State), s.params.undocPolicy = .nop →
    ∃ t, exec i s = .next t ∧
      t.faulted = s.faulted ∧ t.faultReason = s.faultReason ∧ t.params = s.params ∧
      t.ppuCycle = s.ppuCycle ∧ t.cycleTotal = s.cycleTotal ∧
      ∀ a : Word, 0x8000 ≤ a.toNat → cell t a = cell s a

/-! ## The bus -/

/-- R54, R55: a read of storage or ROM is the cell and no effect; a read in the window is the
register's cell; a read of PPUSTATUS gives the value before the read and clears bit 7. -/
def Obligations.BusRead : Prop :=
  ∀ (a : Word) (s : State),
    if 0x2000 ≤ a.toNat ∧ a.toNat ≤ 0x3FFF then
      if a.toNat % 8 = 2 then
        (memRead a s).1 = cell s 0x2002 ∧
        (memRead a s).2 = { s with mem := (memRead a s).2.mem } ∧
        cell (memRead a s).2 0x2002 = cell s 0x2002 &&& 0x7F ∧
        ∀ b, b ≠ 0x2002 → cell (memRead a s).2 b = cell s b
      else memRead a s = (cell s (0x2000 + a % 8), s)
    else memRead a s = (cell s a, s)

/-- R52: storage reads back what was written, and no other address changes. R58: a write to ROM
changes no state. -/
def Obligations.StorageAndRomWrites : Prop :=
  ∀ (a : Word) (v : Byte) (s : State), ¬(0x2000 ≤ a.toNat ∧ a.toNat ≤ 0x3FFF) →
    if 0x8000 ≤ a.toNat then memWrite a v s = s
    else
      memWrite a v s = { s with mem := (memWrite a v s).mem } ∧
      memRead a (memWrite a v s) = (v, memWrite a v s) ∧
      ∀ b, b ≠ a → cell (memWrite a v s) b = cell s b

/-- R59, R62: a write to the registers 0 to 5 of the window stores the raw byte in the register's
cell and does nothing else. -/
def Obligations.PlainRegisterWrite : Prop :=
  ∀ (a : Word) (v : Byte) (s : State), 0x2000 ≤ a.toNat → a.toNat ≤ 0x3FFF → a.toNat % 8 < 6 →
    memWrite a v s = { s with mem := (memWrite a v s).mem } ∧
    cell (memWrite a v s) (0x2000 + a % 8) = v ∧
    ∀ b, b ≠ 0x2000 + a % 8 → cell (memWrite a v s) b = cell s b

/-- R60: a PPUADDR write. In phase `w = false` it sets the high byte, else the low byte; the phase
toggles; the raw byte is stored. Two writes from `w = false` assemble the address. -/
def Obligations.PpuAddrWrite : Prop :=
  ∀ (a : Word) (v : Byte) (s : State), 0x2000 ≤ a.toNat → a.toNat ≤ 0x3FFF → a.toNat % 8 = 6 →
    let t := memWrite a v s
    t = { s with mem := t.mem, vaddr := t.vaddr, w := t.w } ∧
    t.vaddr = (if s.w then (s.vaddr &&& 0xFF00) ||| v.setWidth 16
      else (v.setWidth 16 <<< 8) ||| (s.vaddr &&& 0x00FF)) ∧
    t.w = !s.w ∧ cell t 0x2006 = v ∧ (∀ b, b ≠ 0x2006 → cell t b = cell s b) ∧
    ∀ lo : Byte, s.w = false →
      (memWrite a lo t).vaddr = v ++ lo ∧ (memWrite a lo t).w = false

/-- R61: a PPUDATA write stores to VRAM at `vaddr mod 0x4000` and advances vaddr by 1 or 32. -/
def Obligations.PpuDataWrite : Prop :=
  ∀ (a : Word) (v : Byte) (s : State), 0x2000 ≤ a.toNat → a.toNat ≤ 0x3FFF → a.toNat % 8 = 7 →
    let t := memWrite a v s
    t = { s with mem := t.mem, vram := t.vram, vaddr := t.vaddr } ∧
    vramCell t (s.vaddr.toNat % 0x4000) = v ∧
    (∀ k, k ≠ s.vaddr.toNat % 0x4000 → vramCell t k = vramCell s k) ∧
    t.vaddr = s.vaddr + (if (cell s 0x2000).getLsbD 2 then 32 else 1) ∧
    cell t 0x2007 = v ∧ ∀ b, b ≠ 0x2007 → cell t b = cell s b

/-- The memory's data form: a write is read back, leaves the other addresses, and keeps the
canonical form, in which two memories that read alike are equal. -/
def Obligations.CanonicalMemory : Prop :=
  ∀ (m : Memory), Memory.wf m →
    (∀ (a b : Nat) (v : Byte), a < 0x10000 →
      Memory.wf (writeCell memDefault m a v) ∧
      readCell memDefault (writeCell memDefault m a v) b =
        if b = a then v else readCell memDefault m b) ∧
    ∀ m' : Memory, Memory.wf m' → (∀ a, readCell memDefault m a = readCell memDefault m' a) → m = m'

/-! ## Addressing modes -/

/-- R123 to R130: the effective address of each memory mode, from the registers and the cells of
the state the resolver starts in, and when a page is crossed. -/
def Obligations.EffectiveAddresses : Prop :=
  ∀ (b : Byte) (a : Word) (s : State),
    let ptr (lo hi : Byte) : Word := cell s (hi.setWidth 16) ++ cell s (lo.setWidth 16)
    (resolve (.zeroPage b) s).ea = b.setWidth 16 ∧
    (resolve (.zeroPageX b) s).ea = (b + s.x).setWidth 16 ∧
    (resolve (.zeroPageY b) s).ea = (b + s.y).setWidth 16 ∧
    (resolve (.absolute a) s).ea = a ∧
    (resolve (.absoluteX a) s).ea = a + s.x.setWidth 16 ∧
    (resolve (.absoluteY a) s).ea = a + s.y.setWidth 16 ∧
    (resolve (.indexedIndirect b) s).ea = ptr (b + s.x) (b + s.x + 1) ∧
    (resolve (.indirectIndexed b) s).ea = ptr b (b + 1) + s.y.setWidth 16 ∧
    ((resolve (.absoluteX a) s).crossed = true ↔
      a.toNat / 256 ≠ (a + s.x.setWidth 16).toNat / 256) ∧
    ((resolve (.absoluteY a) s).crossed = true ↔
      a.toNat / 256 ≠ (a + s.y.setWidth 16).toNat / 256) ∧
    ((resolve (.indirectIndexed b) s).crossed = true ↔
      (ptr b (b + 1)).toNat / 256 ≠ (ptr b (b + 1) + s.y.setWidth 16).toNat / 256) ∧
    ∀ m : MemOperand, m.mode ∉ [.absoluteX, .absoluteY, .indirectIndexed] →
      (resolve m s).crossed = false

/-- A resolver makes bus reads and moves PC past the operand bytes, and does nothing else; so does
the reading of an operand, whose byte is the immediate byte or the byte at the effective address
(R122 to R130, R134). Every one of these reads counts (20_memory.md R55): a resolver clears
PPUSTATUS bit 7 exactly when an operand byte lies in PPUSTATUS, the reading of an operand exactly
when that or the effective address does. -/
def Obligations.OperandAccessesOnlyRead : Prop :=
  ∀ (m : MemOperand) (o : ReadOperand) (s : State),
    cell (resolve m s).state ppuStatus = statusAfter (operandInStatus m.mode s) s ∧
    (∀ b, cell (readOperand (.immediate b) s).2 ppuStatus =
      statusAfter (cellOf s.pc == ppuStatus) s) ∧
    cell (readOperand (.memory m) s).2 ppuStatus =
      statusAfter (operandInStatus m.mode s || cellOf (resolve m s).ea == ppuStatus) s ∧
    AfterReads s (resolve m s).state ∧ (resolve m s).state.pc = s.pc + operandSpan m.mode ∧
    AfterReads s (readOperand o s).2 ∧ (readOperand o s).2.pc = s.pc + operandSpan o.mode ∧
    (∀ b, (readOperand (.immediate b) s).1 = b) ∧
    (readOperand (.memory m) s).1 = peek (resolve m s).ea (resolve m s).state

/-- R55, R67: where no operand byte lies in PPUSTATUS, the resolver's and the immediate operand's
only effect is on PC; where moreover the effective address does not reach PPUSTATUS, so is the
memory operand's. -/
def Obligations.QuietOperandAccesses : Prop :=
  ∀ (m : MemOperand) (b : Byte) (s : State),
    (cellOf s.pc ≠ ppuStatus →
      (readOperand (.immediate b) s).2 = { s with pc := s.pc + 1 }) ∧
    ((∀ k : Nat, k < m.mode.length - 1 → cellOf (s.pc + BitVec.ofNat 16 k) ≠ ppuStatus) →
      (resolve m s).state = { s with pc := s.pc + operandSpan m.mode } ∧
      (cellOf (resolve m s).ea ≠ ppuStatus →
        (readOperand (.memory m) s).2 = { s with pc := s.pc + operandSpan m.mode }))

/-! ## Loads, stores, transfers -/

/-- R140 to R142: LDA, LDX and LDY in every form: the register, Z and N; nothing else but what the
operand's reading does. -/
def Obligations.LoadsResult : Prop :=
  ∀ (o : ReadOperand) (s : State),
    let v := (readOperand o s).1
    let u := (readOperand o s).2
    let p : Flags := { s.p with z := decide (v = 0), n := v.getLsbD 7 }
    AfterReads s u ∧ u.pc = s.pc + operandSpan o.mode ∧
    exec (.lda o) s = .next { u with a := v, p := p } ∧
    exec (.ldx o) s = .next { u with x := v, p := p } ∧
    exec (.ldy o) s = .next { u with y := v, p := p }

/-- R143 to R145: STA, STX and STY in every form are one bus write of the register at the effective
address, after the resolver's reads; the target is not read and no flag changes. -/
def Obligations.StoresResult : Prop :=
  ∀ (m : MemOperand) (s : State),
    let r := resolve m s
    exec (.sta m) s = .next (memWrite r.ea s.a r.state) ∧
    exec (.stx m) s = .next (memWrite r.ea s.x r.state) ∧
    exec (.sty m) s = .next (memWrite r.ea s.y r.state)

/-- The frame of the storing forms (R134, R143 to R145, R170, R171, R176 to R179): for every address
given as the one stored to, every other cell is as it was, but for bit 7 of PPUSTATUS, which is
cleared exactly when an operand byte lies there; in ROM no cell changes; the VRAM port changes only behind PPUADDR and
PPUDATA; no register changes, and of P at most C, Z and N. -/
def Obligations.StoringFrame : Prop :=
  ∀ (m : MemOperand) (i : Instr) (s : State),
    i ∈ [.sta m, .stx m, .sty m, .inc m, .dec m, .asl (.memory m), .lsr (.memory m),
      .rol (.memory m), .ror (.memory m)] →
    let ea := (resolve m s).ea
    ∃ t, exec i s = .next t ∧
      t = { s with
        pc := s.pc + operandSpan m.mode, p := t.p, mem := t.mem, vram := t.vram,
        vaddr := t.vaddr, w := t.w } ∧
      t.p = { s.p with n := t.p.n, z := t.p.z, c := t.p.c } ∧
      (i ∈ [.sta m, .stx m, .sty m] → t.p = s.p) ∧
      (i ∈ [.inc m, .dec m] → t.p.c = s.p.c) ∧
      (∀ b, b ≠ cellOf ea → b ≠ ppuStatus → cell t b = cell s b) ∧
      (cellOf ea ≠ ppuStatus →
        cell t ppuStatus = statusAfter (operandInStatus m.mode s) s) ∧
      (region ea = .rom → cell t ea = cell s ea) ∧
      (cellOf ea ≠ ppuAddr → t.w = s.w) ∧
      (cellOf ea ≠ ppuAddr → cellOf ea ≠ ppuData → t.vaddr = s.vaddr) ∧
      (cellOf ea ≠ ppuData → t.vram = s.vram)

/-- R146 to R151: the register transfers; TXS writes no flag. -/
def Obligations.TransfersResult : Prop :=
  ∀ s : State,
    let zn (v : Byte) : Flags := { s.p with z := decide (v = 0), n := v.getLsbD 7 }
    exec .tax s = .next { s with x := s.a, p := zn s.a } ∧
    exec .tay s = .next { s with y := s.a, p := zn s.a } ∧
    exec .txa s = .next { s with a := s.x, p := zn s.x } ∧
    exec .tya s = .next { s with a := s.y, p := zn s.y } ∧
    exec .tsx s = .next { s with x := s.sp, p := zn s.sp } ∧
    exec .txs s = .next { s with sp := s.x }

/-! ## ALU -/

/-- R161 to R163: ORA, AND and EOR in every form. -/
def Obligations.LogicResult : Prop :=
  ∀ (o : ReadOperand) (s : State),
    let m := (readOperand o s).1
    let u := (readOperand o s).2
    let zn (v : Byte) : Flags := { s.p with z := decide (v = 0), n := v.getLsbD 7 }
    AfterReads s u ∧ u.pc = s.pc + operandSpan o.mode ∧
    exec (.ora o) s = .next { u with a := s.a ||| m, p := zn (s.a ||| m) } ∧
    exec (.and o) s = .next { u with a := s.a &&& m, p := zn (s.a &&& m) } ∧
    exec (.eor o) s = .next { u with a := s.a ^^^ m, p := zn (s.a ^^^ m) }

/-- R164: ADC in every form, as integers: the sum is the result and the carry, and V is set exactly
when the signed sum does not fit. -/
def Obligations.AdcResult : Prop :=
  ∀ (o : ReadOperand) (s : State),
    let m := (readOperand o s).1
    let u := (readOperand o s).2
    let signed : Int := s.a.toInt + m.toInt + s.p.c.toNat
    AfterReads s u ∧ u.pc = s.pc + operandSpan o.mode ∧
    ∃ (r : Byte) (carry overflow : Bool),
      exec (.adc o) s = .next { u with
        a := r
        p := { s.p with c := carry, v := overflow, z := decide (r = 0), n := r.getLsbD 7 } } ∧
      s.a.toNat + m.toNat + s.p.c.toNat = 256 * carry.toNat + r.toNat ∧
      (overflow = true ↔ signed < -128 ∨ 127 < signed)

/-- R165: SBC in every form, as integers: `A - m - (1 - C)`, with C the absence of a borrow and V set
exactly when the signed difference does not fit. -/
def Obligations.SbcResult : Prop :=
  ∀ (o : ReadOperand) (s : State),
    let m := (readOperand o s).1
    let u := (readOperand o s).2
    let borrow : Int := 1 - s.p.c.toNat
    let signed : Int := s.a.toInt - m.toInt - borrow
    AfterReads s u ∧ u.pc = s.pc + operandSpan o.mode ∧
    ∃ (r : Byte) (carry overflow : Bool),
      exec (.sbc o) s = .next { u with
        a := r
        p := { s.p with c := carry, v := overflow, z := decide (r = 0), n := r.getLsbD 7 } } ∧
      (s.a.toNat : Int) - m.toNat - borrow = r.toNat - 256 * (1 - carry.toNat) ∧
      (overflow = true ↔ signed < -128 ∨ 127 < signed)

/-- R166 to R168: CMP, CPX and CPY in every form: C, Z and N, and no register. -/
def Obligations.ComparesResult : Prop :=
  ∀ (o : ReadOperand) (s : State),
    let m := (readOperand o s).1
    let u := (readOperand o s).2
    let cmp (reg : Byte) : Flags :=
      { s.p with
        c := decide (m.toNat ≤ reg.toNat), z := decide (reg = m), n := (reg - m).getLsbD 7 }
    AfterReads s u ∧ u.pc = s.pc + operandSpan o.mode ∧
    exec (.cmp o) s = .next { u with p := cmp s.a } ∧
    exec (.cpx o) s = .next { u with p := cmp s.x } ∧
    exec (.cpy o) s = .next { u with p := cmp s.y }

/-- R169: BIT in every form: Z from `A & m`, V and N from bits 6 and 7 of the memory byte. -/
def Obligations.BitTestResult : Prop :=
  ∀ (m : MemOperand) (s : State),
    let v := (readOperand (.memory m) s).1
    let u := (readOperand (.memory m) s).2
    AfterReads s u ∧ u.pc = s.pc + operandSpan m.mode ∧
    exec (.bit m) s = .next { u with
      p := { s.p with z := decide (s.a &&& v = 0), v := v.getLsbD 6, n := v.getLsbD 7 } }

/-- R170, R171: INC and DEC in every form: one read, one write of the result mod 256, Z and N. -/
def Obligations.MemoryIncrementResult : Prop :=
  ∀ (m : MemOperand) (s : State),
    let ea := (resolve m s).ea
    let v := (readOperand (.memory m) s).1
    let u := (readOperand (.memory m) s).2
    let zn (r : Byte) : Flags := { s.p with z := decide (r = 0), n := r.getLsbD 7 }
    exec (.inc m) s = .next { memWrite ea (v + 1) u with p := zn (v + 1) } ∧
    exec (.dec m) s = .next { memWrite ea (v - 1) u with p := zn (v - 1) }

/-- R172 to R175: INX, INY, DEX and DEY. -/
def Obligations.RegisterIncrementResult : Prop :=
  ∀ s : State,
    let zn (v : Byte) : Flags := { s.p with z := decide (v = 0), n := v.getLsbD 7 }
    exec .inx s = .next { s with x := s.x + 1, p := zn (s.x + 1) } ∧
    exec .iny s = .next { s with y := s.y + 1, p := zn (s.y + 1) } ∧
    exec .dex s = .next { s with x := s.x - 1, p := zn (s.x - 1) } ∧
    exec .dey s = .next { s with y := s.y - 1, p := zn (s.y - 1) }

/-- R176 to R179: ASL, LSR, ROL and ROR, bit by bit. The result of the operand byte `v` has each bit
moved by one place, the vacated bit is 0 or the old carry, C receives the bit shifted out. The
accumulator form makes no bus access; the memory form makes one read and one write. -/
def Obligations.ShiftsResult : Prop :=
  ∀ (m : MemOperand) (s : State) (f : ShiftOperand → Instr) (left rotate : Bool),
    (f, left, rotate) ∈ [(Instr.asl, true, false), (.lsr, false, false), (.rol, true, true),
      (.ror, false, true)] →
    let ea := (resolve m s).ea
    let u := (readOperand (.memory m) s).2
    ∃ res : Byte → Byte,
      (∀ (v : Byte) (k : Nat), k < 8 → (res v).getLsbD k =
        if left then (if k = 0 then rotate && s.p.c else v.getLsbD (k - 1))
        else (if k = 7 then rotate && s.p.c else v.getLsbD (k + 1))) ∧
      let p (v : Byte) : Flags :=
        { s.p with
          c := v.getLsbD (if left then 7 else 0), z := decide (res v = 0),
          n := (res v).getLsbD 7 }
      let v := (readOperand (.memory m) s).1
      exec (f .accumulator) s = .next { s with a := res s.a, p := p s.a } ∧
      exec (f (.memory m)) s = .next { memWrite ea (res v) u with p := p v }

/-! ## Control transfer -/

/-- R190 to R198: the branches. The displacement is consumed in either case; the target is relative
to the address after the branch; nothing else changes but what the displacement's fetch does. -/
def Obligations.BranchesResult : Prop :=
  ∀ (d : Byte) (s : State),
    let u := fetched1 s
    let go (taken : Bool) : State :=
      { u with pc := if taken then s.pc + 1 + d.signExtend 16 else s.pc + 1 }
    AfterReads s u ∧ cell u ppuStatus = statusAfter (operandInStatus .relative s) s ∧
    exec (.bpl d) s = .next (go (!s.p.n)) ∧ exec (.bmi d) s = .next (go s.p.n) ∧
    exec (.bvc d) s = .next (go (!s.p.v)) ∧ exec (.bvs d) s = .next (go s.p.v) ∧
    exec (.bcc d) s = .next (go (!s.p.c)) ∧ exec (.bcs d) s = .next (go s.p.c) ∧
    exec (.bne d) s = .next (go (!s.p.z)) ∧ exec (.beq d) s = .next (go s.p.z)

/-- R199, R200, 40_addressing.md R132: JMP. The indirect form reads the pointer's low byte, then its
high byte at the address whose low byte alone is incremented; outside the PPU window the target is
what those two cells hold. -/
def Obligations.JumpsResult : Prop :=
  ∀ (a : Word) (s : State),
    let u := fetched2 s
    let a' : Word := (a &&& 0xFF00) ||| ((a + 1) &&& 0x00FF)
    AfterReads s u ∧ cell u ppuStatus = statusAfter (operandInStatus .absolute s) s ∧
    exec (.jmp (.absolute a)) s = .next { u with pc := a } ∧
    (let lo := memRead a u
     let hi := memRead a' lo.2
     exec (.jmp (.indirect a)) s = .next { hi.2 with pc := hi.1 ++ lo.1 }) ∧
    (region a ≠ .ppuReg →
      exec (.jmp (.indirect a)) s = .next { u with pc := cell s a' ++ cell s a })

/-- R201: JSR pushes the address of its own last byte, high byte first, and jumps. -/
def Obligations.JsrResult : Prop :=
  ∀ (a : Word) (s : State),
    let hi : Word := 0x0100 + s.sp.setWidth 16
    let lo : Word := 0x0100 + (s.sp - 1).setWidth 16
    ∃ t, exec (.jsr a) s = .next t ∧
      t = { s with pc := a, sp := s.sp - 2, mem := t.mem } ∧
      cell t hi = (s.pc + 1).extractLsb' 8 8 ∧ cell t lo = (s.pc + 1).extractLsb' 0 8 ∧
      (∀ b, b ≠ hi → b ≠ lo → b ≠ ppuStatus → cell t b = cell s b) ∧
      cell t ppuStatus = statusAfter (operandInStatus .absolute s) s

/-- R202: RTS pulls the low byte, then the high byte, and adds one. -/
def Obligations.RtsResult : Prop :=
  ∀ s : State,
    let lo := cell s (0x0100 + (s.sp + 1).setWidth 16)
    let hi := cell s (0x0100 + (s.sp + 2).setWidth 16)
    exec .rts s = .next { s with pc := hi ++ lo + 1, sp := s.sp + 2 }

/-- R201, R202: a subroutine that returns at once comes back to the instruction after the JSR, with
SP, the registers and P as they were. -/
def Obligations.RtsAfterJsrReturns : Prop :=
  ∀ (a : Word) (s : State),
    ∃ t u, exec (.jsr a) s = .next t ∧ exec .rts t = .next u ∧
      u = { s with pc := s.pc + 2, mem := t.mem }

/-- R203, R244: BRK pushes the return address and `Pbyte() | 0x10`, sets B and I, and goes to the
vector at 0xFFFE. -/
def Obligations.BrkResult : Prop :=
  ∀ s : State,
    let ret : Word := s.pc - 1 + (if s.params.brkPcOffset = .one then 1 else 2)
    let at' (k : Byte) : Word := 0x0100 + (s.sp - k).setWidth 16
    ∃ t, exec .brk s = .next t ∧
      t = { s with
        pc := cell s 0xFFFF ++ cell s 0xFFFE, sp := s.sp - 3,
        p := { s.p with b := true, i := true }, mem := t.mem } ∧
      cell t (at' 0) = ret.extractLsb' 8 8 ∧ cell t (at' 1) = ret.extractLsb' 0 8 ∧
      cell t (at' 2) = s.p.toByte ||| 0x10 ∧
      ∀ b, b ≠ at' 0 → b ≠ at' 1 → b ≠ at' 2 → cell t b = cell s b

/-- R204, R245: RTI pulls P, then the return address, with no +1. -/
def Obligations.RtiResult : Prop :=
  ∀ s : State,
    let at' (k : Byte) : Byte := cell s (0x0100 + (s.sp + k).setWidth 16)
    let b := at' 1
    exec .rti s = .next { s with
      p := { n := b.getLsbD 7, v := b.getLsbD 6, b := b.getLsbD 4, d := b.getLsbD 3,
             i := b.getLsbD 2, z := b.getLsbD 1, c := b.getLsbD 0 },
      pc := at' 3 ++ at' 2, sp := s.sp + 3 }

/-- R203, R204, R245: RTI at once after BRK unwinds its frame: PC at the pushed address, SP and P as
before the BRK, but for B, which the pushed copy holds as 1. -/
def Obligations.RtiAfterBrkReturns : Prop :=
  ∀ s : State,
    ∃ t u, exec .brk s = .next t ∧ exec .rti t = .next u ∧
      u = { s with
        pc := s.pc - 1 + s.params.brkPcOffset.toWord, p := { s.p with b := true }, mem := t.mem }

/-! ## Stack, flags, no operation -/

/-- 10_state.md R26, R27: the byte view of P, bit by bit, with bit 5 always 1, and its write, which
ignores bit 5. -/
def Obligations.StatusByteView : Prop :=
  (∀ p : Flags,
    let b := p.toByte
    b.getLsbD 7 = p.n ∧ b.getLsbD 6 = p.v ∧ b.getLsbD 5 = true ∧ b.getLsbD 4 = p.b ∧
    b.getLsbD 3 = p.d ∧ b.getLsbD 2 = p.i ∧ b.getLsbD 1 = p.z ∧ b.getLsbD 0 = p.c) ∧
  ∀ b : Byte, Flags.ofByte b =
    { n := b.getLsbD 7, v := b.getLsbD 6, b := b.getLsbD 4, d := b.getLsbD 3,
      i := b.getLsbD 2, z := b.getLsbD 1, c := b.getLsbD 0 }

/-- R210, R211, 10_state.md R31: PHA and PHP write at `0x0100 + SP`, then SP decrements with wrap;
PHP pushes P with bits 5 and 4 set. -/
def Obligations.PushesResult : Prop :=
  ∀ (s : State) (i : Instr) (v : Byte),
    (i, v) ∈ [(Instr.pha, s.a), (.php, s.p.toByte ||| 0x10)] →
    ∃ t, exec i s = .next t ∧ t = { s with sp := s.sp - 1, mem := t.mem } ∧
      cell t (0x0100 + s.sp.setWidth 16) = v ∧
      ∀ b, b ≠ 0x0100 + s.sp.setWidth 16 → cell t b = cell s b

/-- R212, R213, 10_state.md R32: PLA and PLP increment SP with wrap, then read; PLA sets Z and N, PLP
loads the seven flags. No byte of memory changes. -/
def Obligations.PullsResult : Prop :=
  ∀ s : State,
    let v := cell s (0x0100 + (s.sp + 1).setWidth 16)
    exec .pla s = .next { s with
      a := v, sp := s.sp + 1, p := { s.p with z := decide (v = 0), n := v.getLsbD 7 } } ∧
    exec .plp s = .next { s with
      sp := s.sp + 1,
      p := { n := v.getLsbD 7, v := v.getLsbD 6, b := v.getLsbD 4, d := v.getLsbD 3,
             i := v.getLsbD 2, z := v.getLsbD 1, c := v.getLsbD 0 } }

/-- R214 to R221: each flag instruction writes its one flag, and NOP nothing. -/
def Obligations.FlagInstructionsResult : Prop :=
  ∀ s : State,
    exec .clc s = .next { s with p := { s.p with c := false } } ∧
    exec .sec s = .next { s with p := { s.p with c := true } } ∧
    exec .cli s = .next { s with p := { s.p with i := false } } ∧
    exec .sei s = .next { s with p := { s.p with i := true } } ∧
    exec .clv s = .next { s with p := { s.p with v := false } } ∧
    exec .cld s = .next { s with p := { s.p with d := false } } ∧
    exec .sed s = .next { s with p := { s.p with d := true } } ∧
    exec .nop s = .next s

/-! ## Undocumented opcodes -/

/-- R222, R225: under `nop` every undocumented opcode consumes its operand bytes and makes no access
at the effective address; no register, flag or memory cell is written, but for bit 7 of PPUSTATUS
where an operand byte is fetched from it. The immediate byte is not read (log entry 6, the model's
reading of R122). -/
def Obligations.UndocNopResult : Prop :=
  ∀ (op : Byte) (o : UndocOperand) (s : State), s.params.undocPolicy = .nop →
    ∃ t, exec (.undoc op o) s = .next t ∧ AfterReads s t ∧ t.pc = s.pc + operandSpan o.mode ∧
      (∀ m, o = .memory m → t = (resolve m s).state) ∧
      ((∀ m, o ≠ .memory m) → t = { s with pc := s.pc + operandSpan o.mode })

/-- R223: under `fault` PC goes back to the opcode, `faulted` is set with the opcode as its reason,
no operand is fetched and nothing else changes. -/
def Obligations.UndocFaultResult : Prop :=
  ∀ (op : Byte) (o : UndocOperand) (s : State), s.params.undocPolicy = .fault →
    exec (.undoc op o) s =
      .next { s with pc := s.pc - 1, faulted := true, faultReason := some op }

/-- 60_exceptions.md R250: under `nop` no step from a state that is not faulted enters the fault
state, and every such step goes on; the policy stays. -/
def Obligations.FaultUnreachableUnderNop : Prop :=
  ∀ s : State, s.faulted = false → s.params.undocPolicy = .nop →
    ∃ t, step s = .next t ∧ t.faulted = false ∧ t.params = s.params

/-! ## Timing -/

/-- R281: every cycle count is between 2 and 8. -/
def Obligations.CycleCountBounds : Prop :=
  ∀ (i : Instr) (s : State), i.WellFormed → 2 ≤ cycles i s ∧ cycles i s ≤ 8

/-- R282: the base cycle counts of the documented opcodes, in opcode order, whatever the operand. -/
def Obligations.DocumentedCycleTable : Prop :=
  ∀ b1 b2 : Byte,
    ((List.range 256).filter fun n => !isUndocumented (BitVec.ofNat 8 n)).map
      (fun n => baseCycles (decodeOp (BitVec.ofNat 8 n) b1 b2)) =
    [7, 6, 3, 5, 3, 2, 2, 4, 6, 2, 5, 4, 6, 2, 4, 4, 7] ++
    [6, 6, 3, 3, 5, 4, 2, 2, 4, 4, 6, 2, 5, 4, 6, 2, 4, 4, 7] ++
    [6, 6, 3, 5, 3, 2, 2, 3, 4, 6, 2, 5, 4, 6, 2, 4, 4, 7] ++
    [6, 6, 3, 5, 4, 2, 2, 5, 4, 6, 2, 5, 4, 6, 2, 4, 4, 7] ++
    [6, 3, 3, 3, 2, 2, 4, 4, 4, 2, 6, 4, 4, 4, 2, 5, 2, 5] ++
    [2, 6, 2, 3, 3, 3, 2, 2, 2, 4, 4, 4, 2, 5, 4, 4, 4, 2, 4, 2, 4, 4, 4] ++
    [2, 6, 3, 3, 5, 2, 2, 2, 4, 4, 6, 2, 5, 4, 6, 2, 4, 4, 7] ++
    [2, 6, 3, 3, 5, 2, 2, 2, 4, 4, 6, 2, 5, 4, 6, 2, 4, 4, 7]

/-- R284: a branch costs 2 cycles when not taken, 3 when taken, 4 when taken into another page than
that of the address after it. -/
def Obligations.BranchCycles : Prop :=
  ∀ (d : Byte) (i : Instr) (s : State),
    i ∈ [.bpl d, .bmi d, .bvc d, .bvs d, .bcc d, .bcs d, .bne d, .beq d] →
    cycles i s =
      if branchTaken i s.p then
        (if (s.pc + 1).toNat / 256 = (s.pc + 1 + d.signExtend 16).toNat / 256 then 3 else 4)
      else 2

/-- R281, R283: an instruction that is no branch costs its base count, and one more cycle exactly when
it carries the penalty and crosses a page: the read-class instructions LDA LDX LDY ORA AND EOR ADC SBC
CMP in abs,X, abs,Y and (zp),Y, and the undocumented opcodes R224 marks. BranchCycles has the
branches. -/
def Obligations.PageCrossingPenalty : Prop :=
  ∀ (i : Instr) (s : State), i.WellFormed →
    (i.mode ≠ .relative → cycles i s = baseCycles i + pagePenalty i s) ∧
    pagePenalty i s ≤ 1 ∧
    (pagePenalty i s = 1 ↔ ∃ m : MemOperand, memCrossed m s = true ∧
      m.mode ∈ [.absoluteX, .absoluteY, .indirectIndexed] ∧
      (i ∈ [.lda (.memory m), .ldx (.memory m), .ldy (.memory m), .ora (.memory m),
        .and (.memory m), .eor (.memory m), .adc (.memory m), .sbc (.memory m),
        .cmp (.memory m)] ∨
      ∃ op, i = .undoc op (.memory m) ∧
        op ∈ [0x1C, 0x3C, 0x5C, 0x7C, 0xDC, 0xFC, 0xB3, 0xBB, 0xBF]))

/-- 60_exceptions.md R253 to R255: the timer advances three PPU cycles for each CPU cycle and wraps
at 89342; PPUSTATUS bit 7 is set on reaching 82181 and cleared at the wrap; its other bits and
everything else stay. -/
def Obligations.TimerUpdate : Prop :=
  ∀ (c : Nat) (s : State), c ≤ 8 → s.ppuCycle < 89342 →
    let t := ppuUpdate c s
    let reached := s.ppuCycle + 3 * c
    t = { s with mem := t.mem, ppuCycle := t.ppuCycle } ∧
    t.ppuCycle = reached % 89342 ∧
    cell t 0x2002 =
      (if s.ppuCycle < 82181 ∧ 82181 ≤ reached then cell s 0x2002 ||| 0x80
       else if 89342 ≤ reached then cell s 0x2002 &&& 0x7F
       else cell s 0x2002) ∧
    ∀ b, b ≠ 0x2002 → cell t b = cell s b

/-! ## Reset and the host -/

/-- The state after reset is sound. It is RESET with the blank cartridge of log entry 2, the model's
choice, from any state. -/
def Obligations.ResetSound : Prop :=
  Sound State.reset ∧ accepts blankCart = true ∧
  ∀ s : State, reset blankCart { s with params := {} } = State.reset

/-- 10_state.md R45, 70_reset_and_hazards.md R270 to R273: what RESET leaves, for every accepted
cartridge and from every state. -/
def Obligations.ResetValues : Prop :=
  ∀ (cart : Cart) (s : State), accepts cart = true →
    let t := reset cart s
    t.a = 0x00 ∧ t.x = 0x00 ∧ t.y = 0x00 ∧ t.sp = 0xFD ∧ t.p.toByte = 0x34 ∧
    t.pc = cart.prg.getD 0x3FFD 0 ++ cart.prg.getD 0x3FFC 0 ∧
    (∀ a : Word, a.toNat < 0x8000 → cell t a = if a = 0x2002 then 0xA0 else 0x00) ∧
    (∀ i, i < 0x4000 → cell t (BitVec.ofNat 16 (0x8000 + i)) = cart.prg.getD i 0 ∧
      cell t (BitVec.ofNat 16 (0xC000 + i)) = cart.prg.getD i 0) ∧
    (∀ i, i < 0x4000 → vramCell t i = cart.chr.getD i 0) ∧
    t.vaddr = 0x0000 ∧ t.w = false ∧ t.ppuCycle = 0 ∧ t.faulted = false ∧ t.cycleTotal = 0 ∧
    t.params = s.params

/-- RESET gives a sound state that holds the cartridge's PRG, and does not depend on the state
before it (R270, R278). -/
def Obligations.ResetEstablishesSound : Prop :=
  ∀ (cart : Cart) (s s' : State), accepts cart = true →
    Sound (reset cart s) ∧ HoldsPrg cart.prg (reset cart s) ∧
    reset cart { s with params := s'.params } = reset cart s'

/-- What the block refuses its host, and what it answers where it does not. R249, 20_memory.md R70:
CONFIGURE accepts exactly mapper 0, 16 KiB of PRG, no battery RAM and a good image; that the 16384 PRG
bytes are checked is the model's (log entry 12). R263: CONFIGURE once, its second use refused (log
entry 8). 10_state.md R46: no STEP and no inspection before the first RESET. R270: RESET at any time
after a CONFIGURE, from a faulted state too. R280: STEP returns the cycle count, and none when it
faults (44_stack_flags_misc.md R223). R262: what an inspection shows; it has no state to change. -/
def Obligations.HostRefusals : Prop :=
  ∀ (cart cart' : Cart) (params params' : Params) (s : State),
    -- before CONFIGURE, and after a failed one
    Block.unconfigured.configure cart params =
      .next (if cart.mapper = 0 ∧ cart.prgRomSizeKB = 16 ∧ cart.hasBatteryRAM = false ∧
          cart.imageOk = true ∧ cart.prg.length = 16384
        then .configured cart params else .loadFailed) ∧
    Block.loadFailed.configure cart params = .refused .noCartridge ∧
    (∀ b ∈ [Block.unconfigured, .loadFailed],
      b.reset = .refused .noCartridge ∧ b.step = .refused .noCartridge ∧
      ∀ q, b.inspect q = .refused .noCartridge) ∧
    -- configured, before the first RESET
    (Block.configured cart params).configure cart' params' = .refused .alreadyConfigured ∧
    (Block.configured cart params).step = .refused .beforeReset ∧
    (∀ q, (Block.configured cart params).inspect q = .refused .beforeReset) ∧
    (Block.configured cart params).reset =
      .next (.running cart (reset cart { s with params := params })) ∧
    -- running
    (Block.running cart s).configure cart' params' = .refused .alreadyConfigured ∧
    (Block.running cart s).reset = .next (.running cart (reset cart s)) ∧
    (s.faulted = true → (Block.running cart s).step = .fault (.stopped s.faultReason)) ∧
    (∀ (i : Instr) (rest : List Byte), s.faulted = false →
      decode [peek s.pc s, peek (s.pc + 1) s, peek (s.pc + 2) s] = .ok (i, rest) →
      ∃ t, step s = .next t ∧
        (Block.running cart s).step =
          .next (.running cart t, if t.faulted then none else some (cycles i (fetch8 s).2))) ∧
    ∀ q, (Block.running cart s).inspect q = .next (match q with
      | .reg .a => .byte s.a
      | .reg .x => .byte s.x
      | .reg .y => .byte s.y
      | .reg .sp => .byte s.sp
      | .pc => .word s.pc
      | .flags => .flags s.p
      | .statusByte => .byte s.p.toByte
      | .peek a => .byte (memRead a s).1
      | .vram k => .byte (vramCell s k)
      | .vaddr => .word s.vaddr
      | .w => .bool s.w
      | .ppuCycle => .count s.ppuCycle
      | .faulted => .bool s.faulted
      | .cycleTotal => .count s.cycleTotal)

/-! ## Invariants and whole-machine rules -/

/-- 70_reset_and_hazards.md R278: every step keeps the invariants. -/
def Obligations.StepKeepsSound : Prop :=
  ∀ s t : State, Sound s → step s = .next t → Sound t

/-- R278, 20_memory.md R58, R63: every step leaves every ROM cell, so the PRG image stays. -/
def Obligations.StepKeepsRom : Prop :=
  ∀ s t : State, step s = .next t →
    (∀ a : Word, 0x8000 ≤ a.toNat → cell t a = cell s a) ∧
    ∀ prg : List Byte, HoldsPrg prg s → HoldsPrg prg t

/-- 10_state.md R28: an instruction that is not among a flag's writers leaves the flag. -/
def Obligations.FlagWriters : Prop :=
  ∀ (i : Instr) (s t : State), exec i s = .next t →
    (writesNZ i = false → t.p.n = s.p.n ∧ t.p.z = s.p.z) ∧
    (writesV i = false → t.p.v = s.p.v) ∧ (writesB i = false → t.p.b = s.p.b) ∧
    (writesD i = false → t.p.d = s.p.d) ∧ (writesI i = false → t.p.i = s.p.i) ∧
    (writesC i = false → t.p.c = s.p.c)

/-- 10_state.md R21 to R23: an instruction that is not among a register's writers leaves it. -/
def Obligations.RegisterWriters : Prop :=
  ∀ (i : Instr) (s t : State), exec i s = .next t →
    (writesA i = false → t.a = s.a) ∧ (writesX i = false → t.x = s.x) ∧
    (writesY i = false → t.y = s.y) ∧ (writesSP i = false → t.sp = s.sp)

/-- 40_addressing.md R134, 20_memory.md R55, R67: a form that makes no bus write leaves every cell
but PPUSTATUS, of which it clears at most bit 7, and leaves VRAM and its port. -/
def Obligations.NonStoringFrame : Prop :=
  ∀ (i : Instr) (s t : State), exec i s = .next t → makesBusWrite i = false →
    (∀ b, b ≠ ppuStatus → cell t b = cell s b) ∧
    (cell t ppuStatus = cell s ppuStatus ∨ cell t ppuStatus = cell s ppuStatus &&& 0x7F) ∧
    t.vram = s.vram ∧ t.vaddr = s.vaddr ∧ t.w = s.w

/-- 10_state.md R28 to R30: B, D and I affect no computation. Two states that differ only in them
run every instruction but PHP and BRK, which push P, to states that differ only in them. -/
def Obligations.BreakDecimalInterruptInert : Prop :=
  ∀ (i : Instr) (s : State) (b d f : Bool), i ≠ .php → i ≠ .brk →
    ∃ (t : State) (b' d' f' : Bool), exec i s = .next t ∧
      exec i { s with p := { s.p with b := b, d := d, i := f } } =
        .next { t with p := { t.p with b := b', d := d', i := f' } }

/-- 44_stack_flags_misc.md R224: the undocumented opcodes in opcode order, each with its mode, which
fixes its length, and its cycle count, whatever the operand. PageCrossingPenalty has the column of
the penalty. -/
def Obligations.UndocumentedCycleTable : Prop :=
  ∀ b1 b2 : Byte,
    ((List.range 256).filter fun n => isUndocumented (BitVec.ofNat 8 n)).map
      (fun n =>
        let i := decodeOp (BitVec.ofNat 8 n) b1 b2
        (n, i.mode, baseCycles i)) =
    ([
     [(0x02, .implied, 2), (0x03, .indexedIndirect, 8), (0x04, .zeroPage, 3),
      (0x07, .zeroPage, 5), (0x0B, .immediate, 2), (0x0C, .absolute, 4), (0x0F, .absolute, 6),
      (0x12, .implied, 2), (0x13, .indirectIndexed, 8), (0x14, .zeroPageX, 4),
      (0x17, .zeroPageX, 6), (0x1A, .implied, 2), (0x1B, .absoluteY, 7), (0x1C, .absoluteX, 4),
      (0x1F, .absoluteX, 7)],
     [(0x22, .implied, 2), (0x23, .indexedIndirect, 8), (0x27, .zeroPage, 5),
      (0x2B, .immediate, 2), (0x2F, .absolute, 6), (0x32, .implied, 2),
      (0x33, .indirectIndexed, 8), (0x34, .zeroPageX, 4), (0x37, .zeroPageX, 6),
      (0x3A, .implied, 2), (0x3B, .absoluteY, 7), (0x3C, .absoluteX, 4), (0x3F, .absoluteX, 7)],
     [(0x42, .implied, 2), (0x43, .indexedIndirect, 8), (0x44, .zeroPage, 3),
      (0x47, .zeroPage, 5), (0x4B, .immediate, 2), (0x4F, .absolute, 6), (0x52, .implied, 2),
      (0x53, .indirectIndexed, 8), (0x54, .zeroPageX, 4), (0x57, .zeroPageX, 6),
      (0x5A, .implied, 2), (0x5B, .absoluteY, 7), (0x5C, .absoluteX, 4), (0x5F, .absoluteX, 7)],
     [(0x62, .implied, 2), (0x63, .indexedIndirect, 8), (0x64, .zeroPage, 3),
      (0x67, .zeroPage, 5), (0x6B, .immediate, 2), (0x6F, .absolute, 6), (0x72, .implied, 2),
      (0x73, .indirectIndexed, 8), (0x74, .zeroPageX, 4), (0x77, .zeroPageX, 6),
      (0x7A, .implied, 2), (0x7B, .absoluteY, 7), (0x7C, .absoluteX, 4), (0x7F, .absoluteX, 7)],
     [(0x80, .immediate, 2), (0x82, .immediate, 2), (0x83, .indexedIndirect, 6),
      (0x87, .zeroPage, 3), (0x89, .immediate, 2), (0x8B, .immediate, 2), (0x8F, .absolute, 4),
      (0x92, .implied, 2), (0x93, .indirectIndexed, 6), (0x97, .zeroPageY, 4),
      (0x9B, .absoluteY, 5), (0x9C, .absoluteX, 5), (0x9E, .absoluteY, 5),
      (0x9F, .absoluteY, 5)],
     [(0xA3, .indexedIndirect, 6), (0xA7, .zeroPage, 3), (0xAB, .immediate, 2),
      (0xAF, .absolute, 4), (0xB2, .implied, 2), (0xB3, .indirectIndexed, 5),
      (0xB7, .zeroPageY, 4), (0xBB, .absoluteY, 4), (0xBF, .absoluteY, 4)],
     [(0xC2, .immediate, 2), (0xC3, .indexedIndirect, 8), (0xC7, .zeroPage, 5),
      (0xCB, .immediate, 2), (0xCF, .absolute, 6), (0xD2, .implied, 2),
      (0xD3, .indirectIndexed, 8), (0xD4, .zeroPageX, 4), (0xD7, .zeroPageX, 6),
      (0xDA, .implied, 2), (0xDB, .absoluteY, 7), (0xDC, .absoluteX, 4), (0xDF, .absoluteX, 7)],
     [(0xE2, .immediate, 2), (0xE3, .indexedIndirect, 8), (0xE7, .zeroPage, 5),
      (0xEB, .immediate, 2), (0xEF, .absolute, 6), (0xF2, .implied, 2),
      (0xF3, .indirectIndexed, 8), (0xF4, .zeroPageX, 4), (0xF7, .zeroPageX, 6),
      (0xFA, .implied, 2), (0xFB, .absoluteY, 7), (0xFC, .absoluteX, 4), (0xFF, .absoluteX, 7)]] :
      List (List (Nat × Mode × Nat))).flatten
end

