-- ==== Sys2Proof/Laws/Memory.lean ====
section
/-! SUPPORT. The laws of cell lists: a read after a write, and the canonical form every write keeps.
The read laws hold of any list, canonical or not. -/

namespace Sys2Proof.Machine

theorem readCell_insertCell (d : Nat → Byte) (c : Host.Cell) (m : Memory) (b : Nat)
    (h : ∀ e ∈ m, e.1 ≠ c.1) :
    readCell d (insertCell c m) b = if c.1 = b then c.2 else readCell d m b := by
  induction m with
  | nil => simp [insertCell, readCell]
  | cons e m ih =>
    have hm : ∀ e' ∈ m, e'.1 ≠ c.1 := fun e' he' => h e' (List.mem_cons_of_mem _ he')
    have he : e.1 ≠ c.1 := h e (List.mem_cons_self ..)
    unfold insertCell
    by_cases hlt : c.1 < e.1
    · simp [hlt, readCell]
    · simp only [hlt, ↓reduceIte, readCell, ih hm]
      by_cases hb : e.1 = b
      · subst hb; simp [Ne.symm he]
      · simp [hb]

theorem readCell_filter_ne (d : Nat → Byte) (m : Memory) (a b : Nat) (h : b ≠ a) :
    readCell d (m.filter (fun c => c.1 != a)) b = readCell d m b := by
  induction m with
  | nil => rfl
  | cons e m ih =>
    by_cases he : e.1 = a
    · have hb : e.1 ≠ b := fun hb => h (hb.symm.trans he)
      simp [readCell, he, ih]
      exact fun hab => absurd hab.symm h
    · simp [readCell, he, ih]

theorem readCell_filter_self (d : Nat → Byte) (m : Memory) (a : Nat) :
    readCell d (m.filter (fun c => c.1 != a)) a = d a := by
  induction m with
  | nil => rfl
  | cons e m ih =>
    by_cases he : e.1 = a
    · simpa [he] using ih
    · simpa [readCell, he] using ih

/-- A read after a write: the value written, and every other address as before. -/
theorem readCell_writeCell (d : Nat → Byte) (m : Memory) (a b : Nat) (v : Byte) :
    readCell d (writeCell d m a v) b = if b = a then v else readCell d m b := by
  have hne : ∀ e ∈ m.filter (fun c => c.1 != a), e.1 ≠ a := by
    intro e he
    simpa using (List.mem_filter.mp he).2
  unfold writeCell
  by_cases hb : b = a
  · subst hb
    by_cases hv : v = d b
    · simp [hv, readCell_filter_self]
    · simp [hv, readCell_insertCell d (b, v) _ b hne]
  · by_cases hv : v = d a
    · simp [hv, hb, readCell_filter_ne d m a b hb]
    · simp [hv, hb, readCell_insertCell d (a, v) _ b hne, Ne.symm hb, readCell_filter_ne d m a b hb]

theorem mem_insertCell (c e : Host.Cell) (m : Memory) :
    e ∈ insertCell c m ↔ e = c ∨ e ∈ m := by
  induction m with
  | nil => simp [insertCell]
  | cons f m ih =>
    unfold insertCell
    split
    · simp
    · simp [ih]; tauto

theorem insertCell_sorted (c : Host.Cell) (m : Memory) (h : m.Pairwise (fun c d => c.1 < d.1))
    (hc : ∀ e ∈ m, e.1 ≠ c.1) : (insertCell c m).Pairwise (fun c d => c.1 < d.1) := by
  induction m with
  | nil => simp [insertCell]
  | cons f m ih =>
    obtain ⟨hf, hm⟩ := List.pairwise_cons.mp h
    have hcm : ∀ e ∈ m, e.1 ≠ c.1 := fun e he => hc e (List.mem_cons_of_mem _ he)
    have hcf : f.1 ≠ c.1 := hc f (List.mem_cons_self ..)
    unfold insertCell
    split
    · rename_i hlt
      refine List.pairwise_cons.mpr ⟨?_, h⟩
      intro e he
      rcases List.mem_cons.mp he with rfl | he
      · exact hlt
      · exact hlt.trans (hf e he)
    · rename_i hlt
      refine List.pairwise_cons.mpr ⟨?_, ih hm hcm⟩
      intro e he
      rcases (mem_insertCell c e m).mp he with rfl | he
      · omega
      · exact hf e he

/-- A write keeps the canonical form. -/
theorem writeCell_wf (d : Nat → Byte) (bound : Nat) (m : Memory) (a : Nat) (v : Byte)
    (ha : a < bound) (h : CellsWf d bound m) : CellsWf d bound (writeCell d m a v) := by
  have hsort := h.1.filter (fun c => c.1 != a)
  have hmem : ∀ e ∈ m.filter (fun c => c.1 != a), e.1 < bound ∧ e.2 ≠ d e.1 :=
    fun e he => h.2 e (List.mem_filter.mp he).1
  have hne : ∀ e ∈ m.filter (fun c => c.1 != a), e.1 ≠ a := by
    intro e he
    simpa using (List.mem_filter.mp he).2
  unfold writeCell
  split
  · exact ⟨hsort, hmem⟩
  · rename_i hv
    refine ⟨insertCell_sorted _ _ hsort hne, fun e he => ?_⟩
    rcases (mem_insertCell _ e _).mp he with rfl | he
    · exact ⟨ha, hv⟩
    · exact hmem e he

theorem filter_insertCell (a : Nat) (v : Byte) (m : Memory) :
    (insertCell (a, v) m).filter (fun c => c.1 != a) = m.filter (fun c => c.1 != a) := by
  induction m with
  | nil => simp [insertCell]
  | cons e m ih =>
    unfold insertCell
    split
    · simp
    · simp [List.filter_cons, ih]

/-- The last of two writes to one address stands. -/
theorem writeCell_writeCell (d : Nat → Byte) (m : Memory) (a : Nat) (v u : Byte) :
    writeCell d (writeCell d m a v) a u = writeCell d m a u := by
  have h : (writeCell d m a v).filter (fun c => c.1 != a) = m.filter (fun c => c.1 != a) := by
    unfold writeCell
    split
    · simp
    · simp [filter_insertCell]
  rw [writeCell.eq_def d (writeCell d m a v) a u, h]
  rfl

@[simp] theorem setCell_setCell (a : Word) (v u : Byte) (s : State) :
    setCell a u (setCell a v s) = setCell a u s := by
  simp [setCell, writeCell_writeCell]

/-- `MEM[a] <- v` read back. -/
theorem cell_setCell (a b : Word) (v : Byte) (s : State) :
    cell (setCell a v s) b = if b = a then v else cell s b := by
  unfold cell setCell
  rw [readCell_writeCell]
  by_cases h : b = a
  · simp [h]
  · simp [h, BitVec.toNat_inj]

@[simp] theorem cell_setCell_self (a : Word) (v : Byte) (s : State) :
    cell (setCell a v s) a = v := by rw [cell_setCell, if_pos rfl]

theorem cell_setCell_ne {a b : Word} (v : Byte) (s : State) (h : b ≠ a) :
    cell (setCell a v s) b = cell s b := by rw [cell_setCell, if_neg h]

/-- A cell write keeps MEM canonical. -/
theorem setCell_wf (a : Word) (v : Byte) (s : State) (h : Memory.wf s.mem) :
    Memory.wf (setCell a v s).mem := writeCell_wf _ _ _ _ _ a.isLt h

/-- A VRAM write within its 16384 cells keeps VRAM canonical. -/
theorem setVramCell_wf (i : Nat) (v : Byte) (s : State) (hi : i < vramBytes)
    (h : Memory.vramWf s.vram) : Memory.vramWf (setVramCell i v s).vram :=
  writeCell_wf _ _ _ _ _ hi h

theorem vramCell_setVramCell (i j : Nat) (v : Byte) (s : State) :
    vramCell (setVramCell i v s) j = if j = i then v else vramCell s j :=
  readCell_writeCell _ _ _ _ _

end Sys2Proof.Machine
end

