-- ==== Sys2Proof/Laws/State.lean ====
section
/-! SUPPORT. One lemma for each field under each named update of State. -/

namespace Sys2Proof.Machine

@[simp] theorem setPC_a (v : Word) (s : State) : (setPC v s).a = s.a := rfl
@[simp] theorem setPC_x (v : Word) (s : State) : (setPC v s).x = s.x := rfl
@[simp] theorem setPC_y (v : Word) (s : State) : (setPC v s).y = s.y := rfl
@[simp] theorem setPC_sp (v : Word) (s : State) : (setPC v s).sp = s.sp := rfl
@[simp] theorem setPC_pc (v : Word) (s : State) : (setPC v s).pc = v := rfl
@[simp] theorem setPC_p (v : Word) (s : State) : (setPC v s).p = s.p := rfl
@[simp] theorem setPC_mem (v : Word) (s : State) : (setPC v s).mem = s.mem := rfl
@[simp] theorem setPC_vram (v : Word) (s : State) : (setPC v s).vram = s.vram := rfl
@[simp] theorem setPC_vaddr (v : Word) (s : State) : (setPC v s).vaddr = s.vaddr := rfl
@[simp] theorem setPC_w (v : Word) (s : State) : (setPC v s).w = s.w := rfl
@[simp] theorem setPC_ppuCycle (v : Word) (s : State) : (setPC v s).ppuCycle = s.ppuCycle := rfl
@[simp] theorem setPC_faulted (v : Word) (s : State) : (setPC v s).faulted = s.faulted := rfl
@[simp] theorem setPC_faultReason (v : Word) (s : State) : (setPC v s).faultReason = s.faultReason := rfl
@[simp] theorem setPC_cycleTotal (v : Word) (s : State) : (setPC v s).cycleTotal = s.cycleTotal := rfl
@[simp] theorem setPC_params (v : Word) (s : State) : (setPC v s).params = s.params := rfl

@[simp] theorem setFlags_a (q : Flags) (s : State) : (setFlags q s).a = s.a := rfl
@[simp] theorem setFlags_x (q : Flags) (s : State) : (setFlags q s).x = s.x := rfl
@[simp] theorem setFlags_y (q : Flags) (s : State) : (setFlags q s).y = s.y := rfl
@[simp] theorem setFlags_sp (q : Flags) (s : State) : (setFlags q s).sp = s.sp := rfl
@[simp] theorem setFlags_pc (q : Flags) (s : State) : (setFlags q s).pc = s.pc := rfl
@[simp] theorem setFlags_p (q : Flags) (s : State) : (setFlags q s).p = q := rfl
@[simp] theorem setFlags_mem (q : Flags) (s : State) : (setFlags q s).mem = s.mem := rfl
@[simp] theorem setFlags_vram (q : Flags) (s : State) : (setFlags q s).vram = s.vram := rfl
@[simp] theorem setFlags_vaddr (q : Flags) (s : State) : (setFlags q s).vaddr = s.vaddr := rfl
@[simp] theorem setFlags_w (q : Flags) (s : State) : (setFlags q s).w = s.w := rfl
@[simp] theorem setFlags_ppuCycle (q : Flags) (s : State) : (setFlags q s).ppuCycle = s.ppuCycle := rfl
@[simp] theorem setFlags_faulted (q : Flags) (s : State) : (setFlags q s).faulted = s.faulted := rfl
@[simp] theorem setFlags_faultReason (q : Flags) (s : State) : (setFlags q s).faultReason = s.faultReason := rfl
@[simp] theorem setFlags_cycleTotal (q : Flags) (s : State) : (setFlags q s).cycleTotal = s.cycleTotal := rfl
@[simp] theorem setFlags_params (q : Flags) (s : State) : (setFlags q s).params = s.params := rfl

@[simp] theorem setZN_a (v : Byte) (s : State) : (setZN v s).a = s.a := rfl
@[simp] theorem setZN_x (v : Byte) (s : State) : (setZN v s).x = s.x := rfl
@[simp] theorem setZN_y (v : Byte) (s : State) : (setZN v s).y = s.y := rfl
@[simp] theorem setZN_sp (v : Byte) (s : State) : (setZN v s).sp = s.sp := rfl
@[simp] theorem setZN_pc (v : Byte) (s : State) : (setZN v s).pc = s.pc := rfl
@[simp] theorem setZN_p (v : Byte) (s : State) : (setZN v s).p = s.p.setZN v := rfl
@[simp] theorem setZN_mem (v : Byte) (s : State) : (setZN v s).mem = s.mem := rfl
@[simp] theorem setZN_vram (v : Byte) (s : State) : (setZN v s).vram = s.vram := rfl
@[simp] theorem setZN_vaddr (v : Byte) (s : State) : (setZN v s).vaddr = s.vaddr := rfl
@[simp] theorem setZN_w (v : Byte) (s : State) : (setZN v s).w = s.w := rfl
@[simp] theorem setZN_ppuCycle (v : Byte) (s : State) : (setZN v s).ppuCycle = s.ppuCycle := rfl
@[simp] theorem setZN_faulted (v : Byte) (s : State) : (setZN v s).faulted = s.faulted := rfl
@[simp] theorem setZN_faultReason (v : Byte) (s : State) : (setZN v s).faultReason = s.faultReason := rfl
@[simp] theorem setZN_cycleTotal (v : Byte) (s : State) : (setZN v s).cycleTotal = s.cycleTotal := rfl
@[simp] theorem setZN_params (v : Byte) (s : State) : (setZN v s).params = s.params := rfl

@[simp] theorem setCell_a (a : Word) (v : Byte) (s : State) : (setCell a v s).a = s.a := rfl
@[simp] theorem setCell_x (a : Word) (v : Byte) (s : State) : (setCell a v s).x = s.x := rfl
@[simp] theorem setCell_y (a : Word) (v : Byte) (s : State) : (setCell a v s).y = s.y := rfl
@[simp] theorem setCell_sp (a : Word) (v : Byte) (s : State) : (setCell a v s).sp = s.sp := rfl
@[simp] theorem setCell_pc (a : Word) (v : Byte) (s : State) : (setCell a v s).pc = s.pc := rfl
@[simp] theorem setCell_p (a : Word) (v : Byte) (s : State) : (setCell a v s).p = s.p := rfl
@[simp] theorem setCell_mem (a : Word) (v : Byte) (s : State) : (setCell a v s).mem = writeCell memDefault s.mem a.toNat v := rfl
@[simp] theorem setCell_vram (a : Word) (v : Byte) (s : State) : (setCell a v s).vram = s.vram := rfl
@[simp] theorem setCell_vaddr (a : Word) (v : Byte) (s : State) : (setCell a v s).vaddr = s.vaddr := rfl
@[simp] theorem setCell_w (a : Word) (v : Byte) (s : State) : (setCell a v s).w = s.w := rfl
@[simp] theorem setCell_ppuCycle (a : Word) (v : Byte) (s : State) : (setCell a v s).ppuCycle = s.ppuCycle := rfl
@[simp] theorem setCell_faulted (a : Word) (v : Byte) (s : State) : (setCell a v s).faulted = s.faulted := rfl
@[simp] theorem setCell_faultReason (a : Word) (v : Byte) (s : State) : (setCell a v s).faultReason = s.faultReason := rfl
@[simp] theorem setCell_cycleTotal (a : Word) (v : Byte) (s : State) : (setCell a v s).cycleTotal = s.cycleTotal := rfl
@[simp] theorem setCell_params (a : Word) (v : Byte) (s : State) : (setCell a v s).params = s.params := rfl

@[simp] theorem setVramCell_a (k : Nat) (v : Byte) (s : State) : (setVramCell k v s).a = s.a := rfl
@[simp] theorem setVramCell_x (k : Nat) (v : Byte) (s : State) : (setVramCell k v s).x = s.x := rfl
@[simp] theorem setVramCell_y (k : Nat) (v : Byte) (s : State) : (setVramCell k v s).y = s.y := rfl
@[simp] theorem setVramCell_sp (k : Nat) (v : Byte) (s : State) : (setVramCell k v s).sp = s.sp := rfl
@[simp] theorem setVramCell_pc (k : Nat) (v : Byte) (s : State) : (setVramCell k v s).pc = s.pc := rfl
@[simp] theorem setVramCell_p (k : Nat) (v : Byte) (s : State) : (setVramCell k v s).p = s.p := rfl
@[simp] theorem setVramCell_mem (k : Nat) (v : Byte) (s : State) : (setVramCell k v s).mem = s.mem := rfl
@[simp] theorem setVramCell_vram (k : Nat) (v : Byte) (s : State) : (setVramCell k v s).vram = writeCell vramDefault s.vram k v := rfl
@[simp] theorem setVramCell_vaddr (k : Nat) (v : Byte) (s : State) : (setVramCell k v s).vaddr = s.vaddr := rfl
@[simp] theorem setVramCell_w (k : Nat) (v : Byte) (s : State) : (setVramCell k v s).w = s.w := rfl
@[simp] theorem setVramCell_ppuCycle (k : Nat) (v : Byte) (s : State) : (setVramCell k v s).ppuCycle = s.ppuCycle := rfl
@[simp] theorem setVramCell_faulted (k : Nat) (v : Byte) (s : State) : (setVramCell k v s).faulted = s.faulted := rfl
@[simp] theorem setVramCell_faultReason (k : Nat) (v : Byte) (s : State) : (setVramCell k v s).faultReason = s.faultReason := rfl
@[simp] theorem setVramCell_cycleTotal (k : Nat) (v : Byte) (s : State) : (setVramCell k v s).cycleTotal = s.cycleTotal := rfl
@[simp] theorem setVramCell_params (k : Nat) (v : Byte) (s : State) : (setVramCell k v s).params = s.params := rfl

@[simp] theorem setReg_a_a (v : Byte) (s : State) : (setReg .a v s).a = v := rfl
@[simp] theorem setReg_a_x (v : Byte) (s : State) : (setReg .a v s).x = s.x := rfl
@[simp] theorem setReg_a_y (v : Byte) (s : State) : (setReg .a v s).y = s.y := rfl
@[simp] theorem setReg_a_sp (v : Byte) (s : State) : (setReg .a v s).sp = s.sp := rfl
@[simp] theorem setReg_a_pc (v : Byte) (s : State) : (setReg .a v s).pc = s.pc := rfl
@[simp] theorem setReg_a_p (v : Byte) (s : State) : (setReg .a v s).p = s.p := rfl
@[simp] theorem setReg_a_mem (v : Byte) (s : State) : (setReg .a v s).mem = s.mem := rfl
@[simp] theorem setReg_a_vram (v : Byte) (s : State) : (setReg .a v s).vram = s.vram := rfl
@[simp] theorem setReg_a_vaddr (v : Byte) (s : State) : (setReg .a v s).vaddr = s.vaddr := rfl
@[simp] theorem setReg_a_w (v : Byte) (s : State) : (setReg .a v s).w = s.w := rfl
@[simp] theorem setReg_a_ppuCycle (v : Byte) (s : State) : (setReg .a v s).ppuCycle = s.ppuCycle := rfl
@[simp] theorem setReg_a_faulted (v : Byte) (s : State) : (setReg .a v s).faulted = s.faulted := rfl
@[simp] theorem setReg_a_faultReason (v : Byte) (s : State) : (setReg .a v s).faultReason = s.faultReason := rfl
@[simp] theorem setReg_a_cycleTotal (v : Byte) (s : State) : (setReg .a v s).cycleTotal = s.cycleTotal := rfl
@[simp] theorem setReg_a_params (v : Byte) (s : State) : (setReg .a v s).params = s.params := rfl

@[simp] theorem setReg_x_a (v : Byte) (s : State) : (setReg .x v s).a = s.a := rfl
@[simp] theorem setReg_x_x (v : Byte) (s : State) : (setReg .x v s).x = v := rfl
@[simp] theorem setReg_x_y (v : Byte) (s : State) : (setReg .x v s).y = s.y := rfl
@[simp] theorem setReg_x_sp (v : Byte) (s : State) : (setReg .x v s).sp = s.sp := rfl
@[simp] theorem setReg_x_pc (v : Byte) (s : State) : (setReg .x v s).pc = s.pc := rfl
@[simp] theorem setReg_x_p (v : Byte) (s : State) : (setReg .x v s).p = s.p := rfl
@[simp] theorem setReg_x_mem (v : Byte) (s : State) : (setReg .x v s).mem = s.mem := rfl
@[simp] theorem setReg_x_vram (v : Byte) (s : State) : (setReg .x v s).vram = s.vram := rfl
@[simp] theorem setReg_x_vaddr (v : Byte) (s : State) : (setReg .x v s).vaddr = s.vaddr := rfl
@[simp] theorem setReg_x_w (v : Byte) (s : State) : (setReg .x v s).w = s.w := rfl
@[simp] theorem setReg_x_ppuCycle (v : Byte) (s : State) : (setReg .x v s).ppuCycle = s.ppuCycle := rfl
@[simp] theorem setReg_x_faulted (v : Byte) (s : State) : (setReg .x v s).faulted = s.faulted := rfl
@[simp] theorem setReg_x_faultReason (v : Byte) (s : State) : (setReg .x v s).faultReason = s.faultReason := rfl
@[simp] theorem setReg_x_cycleTotal (v : Byte) (s : State) : (setReg .x v s).cycleTotal = s.cycleTotal := rfl
@[simp] theorem setReg_x_params (v : Byte) (s : State) : (setReg .x v s).params = s.params := rfl

@[simp] theorem setReg_y_a (v : Byte) (s : State) : (setReg .y v s).a = s.a := rfl
@[simp] theorem setReg_y_x (v : Byte) (s : State) : (setReg .y v s).x = s.x := rfl
@[simp] theorem setReg_y_y (v : Byte) (s : State) : (setReg .y v s).y = v := rfl
@[simp] theorem setReg_y_sp (v : Byte) (s : State) : (setReg .y v s).sp = s.sp := rfl
@[simp] theorem setReg_y_pc (v : Byte) (s : State) : (setReg .y v s).pc = s.pc := rfl
@[simp] theorem setReg_y_p (v : Byte) (s : State) : (setReg .y v s).p = s.p := rfl
@[simp] theorem setReg_y_mem (v : Byte) (s : State) : (setReg .y v s).mem = s.mem := rfl
@[simp] theorem setReg_y_vram (v : Byte) (s : State) : (setReg .y v s).vram = s.vram := rfl
@[simp] theorem setReg_y_vaddr (v : Byte) (s : State) : (setReg .y v s).vaddr = s.vaddr := rfl
@[simp] theorem setReg_y_w (v : Byte) (s : State) : (setReg .y v s).w = s.w := rfl
@[simp] theorem setReg_y_ppuCycle (v : Byte) (s : State) : (setReg .y v s).ppuCycle = s.ppuCycle := rfl
@[simp] theorem setReg_y_faulted (v : Byte) (s : State) : (setReg .y v s).faulted = s.faulted := rfl
@[simp] theorem setReg_y_faultReason (v : Byte) (s : State) : (setReg .y v s).faultReason = s.faultReason := rfl
@[simp] theorem setReg_y_cycleTotal (v : Byte) (s : State) : (setReg .y v s).cycleTotal = s.cycleTotal := rfl
@[simp] theorem setReg_y_params (v : Byte) (s : State) : (setReg .y v s).params = s.params := rfl

@[simp] theorem setReg_sp_a (v : Byte) (s : State) : (setReg .sp v s).a = s.a := rfl
@[simp] theorem setReg_sp_x (v : Byte) (s : State) : (setReg .sp v s).x = s.x := rfl
@[simp] theorem setReg_sp_y (v : Byte) (s : State) : (setReg .sp v s).y = s.y := rfl
@[simp] theorem setReg_sp_sp (v : Byte) (s : State) : (setReg .sp v s).sp = v := rfl
@[simp] theorem setReg_sp_pc (v : Byte) (s : State) : (setReg .sp v s).pc = s.pc := rfl
@[simp] theorem setReg_sp_p (v : Byte) (s : State) : (setReg .sp v s).p = s.p := rfl
@[simp] theorem setReg_sp_mem (v : Byte) (s : State) : (setReg .sp v s).mem = s.mem := rfl
@[simp] theorem setReg_sp_vram (v : Byte) (s : State) : (setReg .sp v s).vram = s.vram := rfl
@[simp] theorem setReg_sp_vaddr (v : Byte) (s : State) : (setReg .sp v s).vaddr = s.vaddr := rfl
@[simp] theorem setReg_sp_w (v : Byte) (s : State) : (setReg .sp v s).w = s.w := rfl
@[simp] theorem setReg_sp_ppuCycle (v : Byte) (s : State) : (setReg .sp v s).ppuCycle = s.ppuCycle := rfl
@[simp] theorem setReg_sp_faulted (v : Byte) (s : State) : (setReg .sp v s).faulted = s.faulted := rfl
@[simp] theorem setReg_sp_faultReason (v : Byte) (s : State) : (setReg .sp v s).faultReason = s.faultReason := rfl
@[simp] theorem setReg_sp_cycleTotal (v : Byte) (s : State) : (setReg .sp v s).cycleTotal = s.cycleTotal := rfl
@[simp] theorem setReg_sp_params (v : Byte) (s : State) : (setReg .sp v s).params = s.params := rfl

@[simp] theorem getReg_setReg (r : Reg) (v : Byte) (s : State) : getReg r (setReg r v s) = v := by
  cases r <;> rfl

/-- A register write leaves the other registers. -/
theorem getReg_setReg_ne {r q : Reg} (v : Byte) (s : State) (h : q ≠ r) :
    getReg q (setReg r v s) = getReg q s := by
  cases r <;> cases q <;> first | rfl | exact absurd rfl h

@[simp] theorem setReg_mem (r : Reg) (v : Byte) (s : State) : (setReg r v s).mem = s.mem := by
  cases r <;> rfl

/-- The status byte holds every flag (10_state.md R26, R27). -/
@[simp] theorem Flags.ofByte_toByte (p : Flags) : Flags.ofByte p.toByte = p := by
  obtain ⟨n, v, b, d, i, z, c⟩ := p
  revert n v b d i z c
  decide

/-- Writing a byte to P and reading it back sets bit 5 and keeps the rest. -/
@[simp] theorem Flags.toByte_ofByte (b : Byte) : (Flags.ofByte b).toByte = b ||| 0x20 := by
  revert b
  decide

end Sys2Proof.Machine
end

