-- ==== Sys2Proof/Laws/Bus.lean ====
section
/-! SUPPORT. What the bus, the stack and the fetches can do, said once: a read changes at most bit 7
of PPUSTATUS, and a write changes at most one cell and the PPU port behind it. -/

namespace Sys2Proof.Machine

/-! ## Addresses -/

theorem region_ppuStatus : region ppuStatus = .ppuReg := by decide

theorem ppuRegOf_toNat (a : Word) : (ppuRegOf a).toNat = 0x2000 + a.toNat % 8 := by
  unfold ppuRegOf
  rw [BitVec.toNat_add, BitVec.toNat_umod]
  have : a.toNat % 8 < 8 := Nat.mod_lt _ (by decide)
  simp
  omega

theorem region_ppuRegOf (a : Word) : region (ppuRegOf a) = .ppuReg := by
  have h := ppuRegOf_toNat a
  have : a.toNat % 8 < 8 := Nat.mod_lt _ (by decide)
  unfold region
  rw [if_pos]
  omega

theorem cellOf_store {a : Word} (h : region a = .store) : cellOf a = a := by simp [cellOf, h]

theorem cellOf_rom {a : Word} (h : region a = .rom) : cellOf a = a := by simp [cellOf, h]

theorem cellOf_ppuReg {a : Word} (h : region a = .ppuReg) : cellOf a = ppuRegOf a := by
  simp [cellOf, h]

/-- Outside the window an access reaches its own cell, which is not a PPU register. -/
theorem region_ne_of_cellOf {a r : Word} (hr : region r = .ppuReg) (h : region a ≠ .ppuReg) :
    cellOf a ≠ r := by
  intro he
  cases hreg : region a with
  | ppuReg => exact h hreg
  | store => rw [cellOf_store hreg] at he; rw [he, hr] at hreg; cases hreg
  | rom => rw [cellOf_rom hreg] at he; rw [he, hr] at hreg; cases hreg

/-- Zero page and stack page are storage. -/
theorem region_of_lt {a : Word} (h : a.toNat < 0x2000) : region a = .store := by
  unfold region
  rw [if_neg (by omega), if_neg (by omega)]

theorem zext16_toNat (b : Byte) : (zext16 b).toNat = b.toNat := by
  unfold zext16
  rw [BitVec.toNat_setWidth]
  omega

theorem stackAddr_toNat (sp : Byte) : (stackAddr sp).toNat = 0x100 + sp.toNat := by
  unfold stackAddr
  rw [BitVec.toNat_add, zext16_toNat]
  simp
  omega

theorem region_zext16 (b : Byte) : region (zext16 b) = .store :=
  region_of_lt (by rw [zext16_toNat]; omega)

theorem region_stackAddr (sp : Byte) : region (stackAddr sp) = .store :=
  region_of_lt (by rw [stackAddr_toNat]; omega)

theorem stackAddr_inj {p q : Byte} (h : stackAddr p = stackAddr q) : p = q := by
  have := congrArg BitVec.toNat h
  rw [stackAddr_toNat, stackAddr_toNat] at this
  exact BitVec.eq_of_toNat_eq (by omega)

theorem stackAddr_ne_ppuStatus (sp : Byte) : stackAddr sp ≠ ppuStatus := by
  intro h
  have := region_stackAddr sp
  rw [h, region_ppuStatus] at this
  cases this

theorem getLsbD_word (h l : Byte) (i : Nat) :
    (word h l).getLsbD i = if i < 8 then l.getLsbD i else h.getLsbD (i - 8) :=
  BitVec.getLsbD_append

@[simp] theorem hiByte_word (h l : Byte) : hiByte (word h l) = h := by
  apply BitVec.eq_of_getLsbD_eq
  intro i hi
  simp [hiByte, getLsbD_word, hi]

@[simp] theorem loByte_word (h l : Byte) : loByte (word h l) = l := by
  apply BitVec.eq_of_getLsbD_eq
  intro i hi
  simp [loByte, getLsbD_word, hi]

@[simp] theorem word_hiByte_loByte (a : Word) : word (hiByte a) (loByte a) = a := by
  unfold hiByte loByte word
  apply BitVec.eq_of_getLsbD_eq
  intro i hi
  simp only [BitVec.getLsbD_append, BitVec.getLsbD_extractLsb']
  by_cases h : i < 8
  · simp [h]
  · have : i - 8 < 8 := by omega
    simp [h, this]
    congr 1
    omega

/-! ## Reads -/

/-- All that a bus read does. -/
theorem memRead_eq (a : Word) (s : State) :
    memRead a s = (cell s (cellOf a), if cellOf a = ppuStatus then clearVblank s else s) := by
  cases h : region a with
  | ppuReg => simp [memRead, h, cellOf_ppuReg h]
  | store =>
    have := region_ne_of_cellOf region_ppuStatus (a := a) (by simp [h])
    rw [if_neg this]
    simp [memRead, h, cellOf_store h]
  | rom =>
    have := region_ne_of_cellOf region_ppuStatus (a := a) (by simp [h])
    rw [if_neg this]
    simp [memRead, h, cellOf_rom h]

@[simp] theorem memRead_fst (a : Word) (s : State) : (memRead a s).1 = cell s (cellOf a) := by
  rw [memRead_eq]

theorem memRead_snd (a : Word) (s : State) :
    (memRead a s).2 = if cellOf a = ppuStatus then clearVblank s else s := by
  rw [memRead_eq]

theorem peek_eq (a : Word) (s : State) : peek a s = cell s (cellOf a) := memRead_fst a s

/-- A read of storage has no side effect. -/
theorem memRead_store {a : Word} (s : State) (h : region a = .store) :
    memRead a s = (cell s a, s) := by simp [memRead, h]

/-! ## States after reads -/

@[simp] theorem setPC_setPC (u v : Word) (s : State) : setPC u (setPC v s) = setPC u s := rfl

@[simp] theorem setPC_self (s : State) : setPC s.pc s = s := rfl

@[simp] theorem clearVblank_setPC (v : Word) (s : State) :
    clearVblank (setPC v s) = setPC v (clearVblank s) := rfl

@[simp] theorem clearVblank_clearVblank (s : State) :
    clearVblank (clearVblank s) = clearVblank s := by
  have h : cell (clearVblank s) ppuStatus &&& 0x7F = cell s ppuStatus &&& 0x7F := by
    rw [clearVblank, cell_setCell_self, BitVec.and_assoc]
    rfl
  rw [clearVblank.eq_def (clearVblank s), h]
  exact setCell_setCell ..

theorem cell_clearVblank (s : State) (b : Word) :
    cell (clearVblank s) b = if b = ppuStatus then cell s ppuStatus &&& 0x7F else cell s b :=
  cell_setCell ..

namespace AfterReads

theorem refl (s : State) : AfterReads s s := .inl rfl

theorem setPC (s : State) (v : Word) : AfterReads s (setPC v s) := .inl rfl

theorem clearVblank (s : State) : AfterReads s (clearVblank s) := .inr rfl

theorem trans {s t u : State} (h : AfterReads s t) (k : AfterReads t u) : AfterReads s u := by
  unfold AfterReads at *
  rcases h with h | h <;> rcases k with k | k <;> rw [h] at k
  · exact .inl (by simpa using k)
  · exact .inr (by simpa using k)
  · exact .inr (by simpa using k)
  · exact .inr (by simpa using k)

variable {s t : State} (h : AfterReads s t)
include h

theorem a : t.a = s.a := by rcases h with h | h <;> rw [h] <;> rfl
theorem x : t.x = s.x := by rcases h with h | h <;> rw [h] <;> rfl
theorem y : t.y = s.y := by rcases h with h | h <;> rw [h] <;> rfl
theorem sp : t.sp = s.sp := by rcases h with h | h <;> rw [h] <;> rfl
theorem p : t.p = s.p := by rcases h with h | h <;> rw [h] <;> rfl
theorem vram : t.vram = s.vram := by rcases h with h | h <;> rw [h] <;> rfl
theorem vaddr : t.vaddr = s.vaddr := by rcases h with h | h <;> rw [h] <;> rfl
theorem w : t.w = s.w := by rcases h with h | h <;> rw [h] <;> rfl
theorem ppuCycle : t.ppuCycle = s.ppuCycle := by rcases h with h | h <;> rw [h] <;> rfl
theorem faulted : t.faulted = s.faulted := by rcases h with h | h <;> rw [h] <;> rfl
theorem faultReason : t.faultReason = s.faultReason := by rcases h with h | h <;> rw [h] <;> rfl
theorem cycleTotal : t.cycleTotal = s.cycleTotal := by rcases h with h | h <;> rw [h] <;> rfl
theorem params : t.params = s.params := by rcases h with h | h <;> rw [h] <;> rfl

theorem getReg (r : Reg) : getReg r t = getReg r s := by
  rcases h with h | h <;> rw [h] <;> rfl

/-- Every cell but PPUSTATUS is as it was. -/
theorem cell {b : Word} (hb : b ≠ ppuStatus) : cell t b = cell s b := by
  rcases h with h | h <;> rw [h]
  · rfl
  · exact cell_setCell_ne _ _ hb

/-- PPUSTATUS is as it was, or with bit 7 cleared. -/
theorem status : Machine.cell t ppuStatus = Machine.cell s ppuStatus
    ∨ Machine.cell t ppuStatus = Machine.cell s ppuStatus &&& 0x7F := by
  rcases h with h | h <;> rw [h]
  · exact .inl rfl
  · exact .inr (cell_setCell_self ..)

end AfterReads

/-- Reads one after the other reach PPUSTATUS when one of them does. -/
theorem statusAfter_statusAfter {s t : State} {b : Bool} (c : Bool)
    (h : Machine.cell t ppuStatus = statusAfter b s) :
    statusAfter c t = statusAfter (b || c) s := by
  unfold statusAfter at *
  rw [h]
  cases b <;> cases c <;> simp [BitVec.and_assoc]

/-- A bus read clears PPUSTATUS bit 7 exactly when it reaches PPUSTATUS (20_memory.md R55). -/
theorem memRead_status (a : Word) (s : State) :
    Machine.cell (memRead a s).2 ppuStatus = statusAfter (cellOf a == ppuStatus) s := by
  rw [memRead_snd]
  unfold statusAfter
  by_cases h : cellOf a = ppuStatus <;> simp [h, cell_clearVblank]

theorem memRead_afterReads (a : Word) (s : State) : AfterReads s (memRead a s).2 := by
  rw [memRead_snd]
  split
  · exact .clearVblank s
  · exact .refl s

@[simp] theorem memRead_pc (a : Word) (s : State) : (memRead a s).2.pc = s.pc := by
  rw [memRead_snd]
  split <;> rfl

theorem readPair_fst (a b : Word) (s : State) :
    (readPair a b s).1 = word (cell (memRead a s).2 (cellOf b)) (cell s (cellOf a)) := by
  simp [readPair]

theorem readPair_snd (a b : Word) (s : State) :
    (readPair a b s).2 = (memRead b (memRead a s).2).2 := rfl

theorem readPair_afterReads (a b : Word) (s : State) : AfterReads s (readPair a b s).2 :=
  (memRead_afterReads a s).trans (memRead_afterReads b _)

@[simp] theorem readPair_pc (a b : Word) (s : State) : (readPair a b s).2.pc = s.pc := by
  simp [readPair_snd]

/-- A pair read from storage. -/
theorem readPair_store {a b : Word} (s : State) (ha : region a = .store) (hb : region b = .store) :
    readPair a b s = (word (cell s b) (cell s a), s) := by
  simp [readPair, memRead_store _ ha, memRead_store _ hb]

/-! ## Fetches -/

theorem fetch8_eq (s : State) :
    fetch8 s = (cell s (cellOf s.pc), setPC (s.pc + 1) (memRead s.pc s).2) := by
  simp [fetch8, setPC]

@[simp] theorem fetch8_fst (s : State) : (fetch8 s).1 = cell s (cellOf s.pc) := by rw [fetch8_eq]

@[simp] theorem fetch8_snd (s : State) : (fetch8 s).2 = fetched1 s := rfl

theorem fetched1_eq (s : State) : fetched1 s = setPC (s.pc + 1) (memRead s.pc s).2 := by
  simp [fetched1, fetch8_eq]

theorem fetched1_afterReads (s : State) : AfterReads s (fetched1 s) := by
  rw [fetched1_eq]
  exact (memRead_afterReads s.pc s).trans (.setPC _ _)

theorem fetched2_afterReads (s : State) : AfterReads s (fetched2 s) :=
  (fetched1_afterReads s).trans (fetched1_afterReads _)

@[simp] theorem fetched1_pc (s : State) : (fetched1 s).pc = s.pc + 1 := by
  rw [fetched1_eq]
  rfl

@[simp] theorem fetched2_pc (s : State) : (fetched2 s).pc = s.pc + 2 := by
  unfold fetched2
  rw [fetched1_pc, fetched1_pc, BitVec.add_assoc]
  rfl

/-! ## Writes -/

/-- All that a bus write does to MEM: one cell, and none in ROM. -/
theorem cell_memWrite (a b : Word) (v : Byte) (s : State) :
    cell (memWrite a v s) b = if b = cellOf a ∧ region a ≠ .rom then v else cell s b := by
  cases h : region a with
  | store => simp [memWrite, h, cellOf_store h, cell_setCell]
  | rom => simp [memWrite, h]
  | ppuReg =>
    have hc : cell (memWrite a v s) b = cell (setCell (ppuRegOf a) v s) b := by
      simp only [memWrite, h]
      split
      · rfl
      · split <;> rfl
    simp [hc, cellOf_ppuReg h, cell_setCell]

/-- A bus write touches nothing but MEM, VRAM and the VRAM port. -/
theorem memWrite_rest (a : Word) (v : Byte) (s : State) :
    memWrite a v s = { s with
      mem := (memWrite a v s).mem, vram := (memWrite a v s).vram,
      vaddr := (memWrite a v s).vaddr, w := (memWrite a v s).w } := by
  unfold memWrite
  split
  · rfl
  · rfl
  · simp only []
    split
    · rfl
    · split <;> rfl

/-- Away from PPUADDR and PPUDATA a bus write touches MEM alone. -/
theorem memWrite_plain (a : Word) (v : Byte) (s : State) (h6 : cellOf a ≠ ppuAddr)
    (h7 : cellOf a ≠ ppuData) :
    memWrite a v s = if region a = .rom then s else setCell (cellOf a) v s := by
  cases h : region a with
  | store => simp [memWrite, h, cellOf_store h]
  | rom => simp [memWrite, h]
  | ppuReg =>
    rw [cellOf_ppuReg h] at h6 h7 ⊢
    simp [memWrite, h, h6, h7]

theorem memWrite_store {a : Word} (v : Byte) (s : State) (h : region a = .store) :
    memWrite a v s = setCell a v s := by simp [memWrite, h]

/-- A bus write keeps both memories canonical. -/
theorem memWrite_wf (a : Word) (v : Byte) (s : State) (hm : Memory.wf s.mem)
    (hv : Memory.vramWf s.vram) :
    Memory.wf (memWrite a v s).mem ∧ Memory.vramWf (memWrite a v s).vram := by
  have hidx : s.vaddr.toNat % vramBytes < vramBytes := Nat.mod_lt _ (by decide)
  unfold memWrite
  split
  · exact ⟨setCell_wf _ _ _ hm, hv⟩
  · exact ⟨hm, hv⟩
  · simp only []
    split
    · exact ⟨setCell_wf _ _ _ hm, hv⟩
    · split
      · exact ⟨setCell_wf _ _ _ hm, setVramCell_wf _ _ _ hidx hv⟩
      · exact ⟨setCell_wf _ _ _ hm, hv⟩

/-! ## Stack -/

theorem push_eq (v : Byte) (s : State) :
    push v s = setReg .sp (s.sp - 1) (setCell (stackAddr s.sp) v s) := by
  simp only [push, memWrite_store _ _ (region_stackAddr _)]
  rfl

theorem pull_eq (s : State) :
    pull s = (cell s (stackAddr (s.sp + 1)), setReg .sp (s.sp + 1) s) := by
  simp only [pull, memRead_store _ (region_stackAddr _)]
  rfl

theorem pushWord_eq (v : Word) (s : State) :
    pushWord v s = setReg .sp (s.sp - 2)
      (setCell (stackAddr (s.sp - 1)) (loByte v) (setCell (stackAddr s.sp) (hiByte v) s)) := by
  have h : s.sp - 2 = s.sp - 1 - 1 := by rw [BitVec.sub_sub]; rfl
  simp only [pushWord, push_eq, h]
  rfl

theorem pullWord_eq (s : State) :
    pullWord s = (word (cell s (stackAddr (s.sp + 2))) (cell s (stackAddr (s.sp + 1))),
      setReg .sp (s.sp + 2) s) := by
  have h : s.sp + 2 = s.sp + 1 + 1 := by rw [BitVec.add_assoc]; rfl
  simp only [pullWord, pull_eq, h]
  rfl

end Sys2Proof.Machine
end

