-- ==== Sys2Proof/Laws/Operands.lean ====
section
/-! SUPPORT. What the resolvers and the operand accesses can do: they read, they move PC past the
operand bytes, and a store or a read-modify-write adds one bus write at the effective address. -/

namespace Sys2Proof.Machine

/-- A resolver only reads. -/
theorem resolve_afterReads (m : MemOperand) (s : State) : AfterReads s (resolve m s).state := by
  cases m <;>
    first
    | exact fetched1_afterReads s
    | exact fetched2_afterReads s
    | exact (fetched1_afterReads s).trans (readPair_afterReads _ _ _)

/-- A resolver leaves PC past the operand bytes. -/
theorem resolve_pc (m : MemOperand) (s : State) :
    (resolve m s).state.pc = s.pc + operandSpan m.mode := by
  cases m <;>
    first
    | exact fetched1_pc s
    | exact fetched2_pc s
    | exact (readPair_pc _ _ _).trans (fetched1_pc s)

theorem resolveJump_afterReads (o : JumpOperand) (s : State) :
    AfterReads s (resolveJump o s).state := by
  cases o
  · exact fetched2_afterReads s
  · exact (fetched2_afterReads s).trans (readPair_afterReads _ _ _)

theorem resolveRelative_afterReads (d : Byte) (s : State) :
    AfterReads s (resolveRelative d s).state := fetched1_afterReads s

/-- Reading an operand only reads. -/
theorem readOperand_afterReads (o : ReadOperand) (s : State) : AfterReads s (readOperand o s).2 := by
  cases o with
  | immediate b => exact fetched1_afterReads s
  | memory m => exact (resolve_afterReads m s).trans (memRead_afterReads _ _)

/-- Reading an operand leaves PC past the operand bytes. -/
theorem readOperand_pc (o : ReadOperand) (s : State) :
    (readOperand o s).2.pc = s.pc + operandSpan o.mode := by
  cases o with
  | immediate b => exact fetched1_pc s
  | memory m => exact (memRead_pc _ _).trans (resolve_pc m s)

@[simp] theorem readOperand_immediate (b : Byte) (s : State) : (readOperand (.immediate b) s).1 = b :=
  rfl

theorem readOperand_memory (m : MemOperand) (s : State) :
    (readOperand (.memory m) s).1 = peek (resolve m s).ea (resolve m s).state := rfl

/-- A read-modify-write in one line: the reads, one write at the effective address, then P. -/
theorem modifyOperand_eq (f : Byte → Flags → Byte × Flags) (m : MemOperand) (s : State) :
    modifyOperand f m s =
      setFlags (f (readOperand (.memory m) s).1 s.p).2
        (memWrite (resolve m s).ea (f (readOperand (.memory m) s).1 s.p).1
          (readOperand (.memory m) s).2) := by
  have hp : (readOperand (.memory m) s).2.p = s.p := (readOperand_afterReads (.memory m) s).p
  have hp' : (memRead (resolve m s).ea (resolve m s).state).2.p = s.p := hp
  simp only [modifyOperand, readOperand, hp']

/-! ## Operand bytes in PPUSTATUS -/

theorem operandInStatus_one {m : Mode} (s : State) (h : m.length = 2) :
    operandInStatus m s = (cellOf s.pc == ppuStatus) := by
  simp [operandInStatus, h, List.range_succ]

theorem operandInStatus_two {m : Mode} (s : State) (h : m.length = 3) :
    operandInStatus m s =
      (cellOf s.pc == ppuStatus || cellOf (s.pc + 1) == ppuStatus) := by
  simp [operandInStatus, h, List.range_succ]

/-! ## Quiet operands: no byte of the instruction comes from PPUSTATUS -/

theorem memRead_quiet {a : Word} (s : State) (h : cellOf a ≠ ppuStatus) : (memRead a s).2 = s := by
  rw [memRead_snd, if_neg h]

theorem fetched1_quiet (s : State) (h : cellOf s.pc ≠ ppuStatus) :
    fetched1 s = setPC (s.pc + 1) s := by
  rw [fetched1_eq, memRead_quiet s h]

theorem fetched2_quiet (s : State) (h : cellOf s.pc ≠ ppuStatus)
    (h' : cellOf (s.pc + 1) ≠ ppuStatus) : fetched2 s = setPC (s.pc + 2) s := by
  unfold fetched2
  rw [fetched1_quiet s h, fetched1_quiet _ h']
  have : s.pc + 2 = s.pc + 1 + 1 := by rw [BitVec.add_assoc]; rfl
  rw [this]
  rfl

/-! ## Zero-page pointers -/

/-- After a fetch the zero page reads as before. -/
theorem cell_fetched1_zeroPage (b : Byte) (s : State) :
    cell (fetched1 s) (zext16 b) = cell s (zext16 b) := by
  refine (fetched1_afterReads s).cell ?_
  intro h
  have := region_zext16 b
  rw [h, region_ppuStatus] at this
  cases this

theorem readPair_zeroPage (a b : Byte) (s : State) :
    readPair (zext16 a) (zext16 b) s = (word (cell s (zext16 b)) (cell s (zext16 a)), s) :=
  readPair_store s (region_zext16 a) (region_zext16 b)

end Sys2Proof.Machine
end

