-- ==== Sys2Proof/Laws/Meanings.lean ====
section
/-! SUPPORT. One equation for each shared operation that the meanings are built from: everything it
does, with the operand accesses left as `readOperand` and `resolve`. -/

namespace Sys2Proof.Machine

/-! ## Loads, stores, transfers, ALU -/

theorem load_eq (r : Reg) (o : ReadOperand) (s : State) :
    load r o s = setZN (readOperand o s).1 (setReg r (readOperand o s).1 (readOperand o s).2) := rfl

theorem writeOperand_eq (m : MemOperand) (v : Byte) (s : State) :
    writeOperand m v s = memWrite (resolve m s).ea v (resolve m s).state := rfl

theorem logic_eq (f : Byte → Byte → Byte) (o : ReadOperand) (s : State) :
    logic f o s =
      setZN (f s.a (readOperand o s).1) (setReg .a (f s.a (readOperand o s).1) (readOperand o s).2) := by
  rw [← (readOperand_afterReads o s).a]
  rfl

theorem arith_eq (f : Byte → Byte → Bool → AluResult) (o : ReadOperand) (s : State) :
    arith f o s =
      setFlags (s.p.setArith (f s.a (readOperand o s).1 s.p.c))
        (setReg .a (f s.a (readOperand o s).1 s.p.c).value (readOperand o s).2) := by
  rw [← (readOperand_afterReads o s).a, ← (readOperand_afterReads o s).p]
  rfl

theorem compareReg_eq (r : Reg) (o : ReadOperand) (s : State) :
    compareReg r o s =
      setFlags (s.p.setCompare (getReg r s) (readOperand o s).1) (readOperand o s).2 := by
  rw [← (readOperand_afterReads o s).getReg r, ← (readOperand_afterReads o s).p]
  rfl

theorem bitTest_eq (m : MemOperand) (s : State) :
    bitTest m s =
      setFlags (s.p.setBit s.a (readOperand (.memory m) s).1) (readOperand (.memory m) s).2 := by
  rw [← (readOperand_afterReads (.memory m) s).a, ← (readOperand_afterReads (.memory m) s).p]
  rfl

theorem modifyReg_eq (f : Byte → Flags → Byte × Flags) (r : Reg) (s : State) :
    modifyReg f r s = setFlags (f (getReg r s) s.p).2 (setReg r (f (getReg r s) s.p).1 s) := rfl

/-- A bus write after reads: at most the written cell and bit 7 of PPUSTATUS change in MEM, and the
VRAM port changes only behind PPUADDR and PPUDATA. -/
theorem memWrite_afterReads {s u : State} (ea : Word) (v : Byte) (h : AfterReads s u) :
    memWrite ea v u = { s with
      pc := u.pc, mem := (memWrite ea v u).mem, vram := (memWrite ea v u).vram,
      vaddr := (memWrite ea v u).vaddr, w := (memWrite ea v u).w } := by
  rw [memWrite_rest]
  rcases h with h | h <;> rw [h] <;> rfl

theorem cell_memWrite_afterReads {s u : State} {ea b : Word} (v : Byte) (h : AfterReads s u)
    (hb : b ≠ cellOf ea) (hs : b ≠ ppuStatus) : cell (memWrite ea v u) b = cell s b := by
  rw [cell_memWrite, if_neg (fun k => hb k.1), h.cell hs]

/-! ## Control -/

theorem branch_eq (taken : Bool) (d : Byte) (s : State) :
    branch taken d s =
      setPC (if taken then s.pc + 1 + sext16 d else s.pc + 1) (fetched1 s) := by
  have h : ∀ v, v = (fetched1 s).pc → fetched1 s = setPC v (fetched1 s) := fun v hv => by
    rw [hv, setPC_self]
  simp only [branch, resolveRelative, fetched1_pc]
  cases taken
  · exact h _ (fetched1_pc s).symm
  · rfl

theorem jumpTo_eq (o : JumpOperand) (s : State) :
    jumpTo o s = setPC (resolveJump o s).ea (resolveJump o s).state := rfl

/-- The pushed address is that of the last byte of the JSR. -/
theorem callSubroutine_eq (a : Word) (s : State) :
    callSubroutine a s = setPC a (pushWord (s.pc + 1) (fetched2 s)) := by
  have h : s.pc + 2 - 1 = s.pc + 1 := by
    rw [← BitVec.add_sub_cancel (s.pc + 1) 1, BitVec.add_assoc]
    rfl
  rw [← h, ← fetched2_pc]
  rfl

theorem returnSubroutine_eq (s : State) :
    returnSubroutine s =
      setPC (word (cell s (stackAddr (s.sp + 2))) (cell s (stackAddr (s.sp + 1))) + 1)
        (setReg .sp (s.sp + 2) s) := by
  rw [returnSubroutine, pullWord_eq]

/-! ## Pulls and traps -/

theorem pullA_eq (s : State) :
    pullA s =
      setZN (cell s (stackAddr (s.sp + 1)))
        (setReg .a (cell s (stackAddr (s.sp + 1))) (setReg .sp (s.sp + 1) s)) := by
  rw [pullA, pull_eq]

theorem pullFlags_eq (s : State) :
    pullFlags s =
      setFlags (Flags.ofByte (cell s (stackAddr (s.sp + 1)))) (setReg .sp (s.sp + 1) s) := by
  rw [pullFlags, pull_eq]

theorem region_brkVectorLo : region brkVectorLo = .rom := by decide
theorem region_brkVectorHi : region brkVectorHi = .rom := by decide

theorem brkVector_ne_stackAddr (sp : Byte) :
    brkVectorLo ≠ stackAddr sp ∧ brkVectorHi ≠ stackAddr sp := by
  constructor <;> intro h <;> have := region_stackAddr sp <;> rw [← h] at this
  · rw [region_brkVectorLo] at this
    cases this
  · rw [region_brkVectorHi] at this
    cases this

/-- Reading the vector has no effect. -/
theorem readPair_brkVector (s : State) :
    readPair brkVectorLo brkVectorHi s = (word (cell s brkVectorHi) (cell s brkVectorLo), s) := by
  simp only [readPair, memRead, region_brkVectorLo, region_brkVectorHi]

/-- The three bytes trap entry stores. -/
theorem enterTrap_eq (ret : Word) (s : State) :
    enterTrap ret s = { s with
      pc := word (cell s brkVectorHi) (cell s brkVectorLo)
      sp := s.sp - 3
      p := { s.p with b := true, i := true }
      mem := (setCell (stackAddr (s.sp - 2)) (s.p.toByte ||| 0x10)
        (setCell (stackAddr (s.sp - 1)) (loByte ret)
          (setCell (stackAddr s.sp) (hiByte ret) s))).mem } := by
  have h3 : s.sp - 2 - 1 = s.sp - 3 := by rw [BitVec.sub_sub]; rfl
  have hpush : push (s.p.toByte ||| 0x10) (pushWord ret s) =
      setReg .sp (s.sp - 3) (setCell (stackAddr (s.sp - 2)) (s.p.toByte ||| 0x10)
        (setCell (stackAddr (s.sp - 1)) (loByte ret) (setCell (stackAddr s.sp) (hiByte ret) s))) := by
    rw [push_eq, pushWord_eq]
    simp only [setReg, setCell, h3]
  have hrest : setCell (stackAddr (s.sp - 2)) (s.p.toByte ||| 0x10)
      (setCell (stackAddr (s.sp - 1)) (loByte ret) (setCell (stackAddr s.sp) (hiByte ret) s)) =
      { s with mem := (setCell (stackAddr (s.sp - 2)) (s.p.toByte ||| 0x10)
        (setCell (stackAddr (s.sp - 1)) (loByte ret)
          (setCell (stackAddr s.sp) (hiByte ret) s))).mem } := by
    simp only [setCell]
  have hcell : ∀ b, (∀ sp, b ≠ stackAddr sp) →
      cell (setCell (stackAddr (s.sp - 2)) (s.p.toByte ||| 0x10)
        (setCell (stackAddr (s.sp - 1)) (loByte ret) (setCell (stackAddr s.sp) (hiByte ret) s))) b =
        cell s b := fun b hb => by
    rw [cell_setCell_ne _ _ (hb _), cell_setCell_ne _ _ (hb _), cell_setCell_ne _ _ (hb _)]
  have hlo := hcell _ fun sp => (brkVector_ne_stackAddr sp).1
  have hhi := hcell _ fun sp => (brkVector_ne_stackAddr sp).2
  generalize setCell (stackAddr (s.sp - 2)) (s.p.toByte ||| 0x10)
    (setCell (stackAddr (s.sp - 1)) (loByte ret) (setCell (stackAddr s.sp) (hiByte ret) s)) = m at *
  simp only [enterTrap, hpush, readPair_brkVector, setPC]
  rw [← hlo, ← hhi]
  rw [hrest]
  simp only [setReg, setFlags, cell]

theorem leaveTrap_eq (s : State) :
    leaveTrap s = { s with
      pc := word (cell s (stackAddr (s.sp + 3))) (cell s (stackAddr (s.sp + 2)))
      sp := s.sp + 3
      p := Flags.ofByte (cell s (stackAddr (s.sp + 1))) } := by
  have h2 : s.sp + 1 + 1 = s.sp + 2 := by rw [BitVec.add_assoc]; rfl
  have h3 : s.sp + 1 + 2 = s.sp + 3 := by rw [BitVec.add_assoc]; rfl
  have h : pullWord (setFlags (Flags.ofByte (cell s (stackAddr (s.sp + 1))))
      (setReg .sp (s.sp + 1) s)) =
      (word (cell s (stackAddr (s.sp + 3))) (cell s (stackAddr (s.sp + 2))),
        setReg .sp (s.sp + 3) (setFlags (Flags.ofByte (cell s (stackAddr (s.sp + 1))))
          (setReg .sp (s.sp + 1) s))) := by
    rw [pullWord_eq, ← h2, ← h3]
    rfl
  simp only [leaveTrap, pull_eq, h]
  rfl

/-! ## Undocumented opcodes -/

theorem passOperand_memory (m : MemOperand) (s : State) :
    passOperand (.memory m) s = (resolve m s).state := rfl

/-- Passing the operand bytes only reads. -/
theorem passOperand_afterReads (o : UndocOperand) (s : State) : AfterReads s (passOperand o s) := by
  cases o with
  | implied => exact .refl s
  | immediate b => exact .setPC s _
  | memory m => exact resolve_afterReads m s

theorem passOperand_pc (o : UndocOperand) (s : State) :
    (passOperand o s).pc = s.pc + operandSpan o.mode := by
  cases o with
  | implied => exact (BitVec.add_zero _).symm
  | immediate b => rfl
  | memory m => exact resolve_pc m s

theorem exec_undoc_nop (op : Byte) (o : UndocOperand) (s : State)
    (h : s.params.undocPolicy = .nop) : exec (.undoc op o) s = .next (passOperand o s) := by
  simp only [exec, execUndoc, h]

theorem exec_undoc_fault (op : Byte) (o : UndocOperand) (s : State)
    (h : s.params.undocPolicy = .fault) : exec (.undoc op o) s = .next (raiseUndoc op s) := by
  simp only [exec, execUndoc, h]

end Sys2Proof.Machine
end

