-- ==== Sys2Proof/Laws/PerInstr.lean ====
section
/-! SUPPORT. Two facts about every instruction as syntax, one lemma for each constructor: the length
its mode gives is that of its bytes (30_encoding.md R91), and it is well formed exactly when it has
an opcode. -/

namespace Sys2Proof

/-! ## The operand forms -/

theorem memOperandBytes_length (m : MemOperand) :
    (memOperandBytes m).length + 1 = m.mode.length := by cases m <;> rfl

theorem readOperandBytes_length (o : ReadOperand) :
    (readOperandBytes o).length + 1 = o.mode.length := by
  cases o with
  | immediate b => rfl
  | memory m => exact memOperandBytes_length m

theorem shiftOperandBytes_length (o : ShiftOperand) :
    (shiftOperandBytes o).length + 1 = o.mode.length := by
  cases o with
  | accumulator => rfl
  | memory m => exact memOperandBytes_length m

theorem undocOperandBytes_length (o : UndocOperand) :
    (undocOperandBytes o).length + 1 = o.mode.length := by
  cases o with
  | implied => rfl
  | immediate b => rfl
  | memory m => exact memOperandBytes_length m

namespace Laws.Length

/-- The bytes of the instruction are as many as its mode says. -/
def Statement (i : Instr) : Prop := (operandBytes i).length + 1 = i.length

theorem lda (o : ReadOperand) : Statement (.lda o) := readOperandBytes_length o
theorem ldx (o : ReadOperand) : Statement (.ldx o) := readOperandBytes_length o
theorem ldy (o : ReadOperand) : Statement (.ldy o) := readOperandBytes_length o
theorem sta (m : MemOperand) : Statement (.sta m) := memOperandBytes_length m
theorem stx (m : MemOperand) : Statement (.stx m) := memOperandBytes_length m
theorem sty (m : MemOperand) : Statement (.sty m) := memOperandBytes_length m
theorem tax : Statement .tax := rfl
theorem tay : Statement .tay := rfl
theorem txa : Statement .txa := rfl
theorem tya : Statement .tya := rfl
theorem tsx : Statement .tsx := rfl
theorem txs : Statement .txs := rfl
theorem ora (o : ReadOperand) : Statement (.ora o) := readOperandBytes_length o
theorem and (o : ReadOperand) : Statement (.and o) := readOperandBytes_length o
theorem eor (o : ReadOperand) : Statement (.eor o) := readOperandBytes_length o
theorem adc (o : ReadOperand) : Statement (.adc o) := readOperandBytes_length o
theorem sbc (o : ReadOperand) : Statement (.sbc o) := readOperandBytes_length o
theorem cmp (o : ReadOperand) : Statement (.cmp o) := readOperandBytes_length o
theorem cpx (o : ReadOperand) : Statement (.cpx o) := readOperandBytes_length o
theorem cpy (o : ReadOperand) : Statement (.cpy o) := readOperandBytes_length o
theorem bit (m : MemOperand) : Statement (.bit m) := memOperandBytes_length m
theorem inc (m : MemOperand) : Statement (.inc m) := memOperandBytes_length m
theorem dec (m : MemOperand) : Statement (.dec m) := memOperandBytes_length m
theorem inx : Statement .inx := rfl
theorem iny : Statement .iny := rfl
theorem dex : Statement .dex := rfl
theorem dey : Statement .dey := rfl
theorem asl (o : ShiftOperand) : Statement (.asl o) := shiftOperandBytes_length o
theorem lsr (o : ShiftOperand) : Statement (.lsr o) := shiftOperandBytes_length o
theorem rol (o : ShiftOperand) : Statement (.rol o) := shiftOperandBytes_length o
theorem ror (o : ShiftOperand) : Statement (.ror o) := shiftOperandBytes_length o
theorem bpl (d : Byte) : Statement (.bpl d) := rfl
theorem bmi (d : Byte) : Statement (.bmi d) := rfl
theorem bvc (d : Byte) : Statement (.bvc d) := rfl
theorem bvs (d : Byte) : Statement (.bvs d) := rfl
theorem bcc (d : Byte) : Statement (.bcc d) := rfl
theorem bcs (d : Byte) : Statement (.bcs d) := rfl
theorem bne (d : Byte) : Statement (.bne d) := rfl
theorem beq (d : Byte) : Statement (.beq d) := rfl
theorem jmp (o : JumpOperand) : Statement (.jmp o) := by cases o <;> rfl
theorem jsr (a : Word) : Statement (.jsr a) := rfl
theorem rts : Statement .rts := rfl
theorem brk : Statement .brk := rfl
theorem rti : Statement .rti := rfl
theorem pha : Statement .pha := rfl
theorem php : Statement .php := rfl
theorem pla : Statement .pla := rfl
theorem plp : Statement .plp := rfl
theorem clc : Statement .clc := rfl
theorem sec : Statement .sec := rfl
theorem cli : Statement .cli := rfl
theorem sei : Statement .sei := rfl
theorem clv : Statement .clv := rfl
theorem cld : Statement .cld := rfl
theorem sed : Statement .sed := rfl
theorem nop : Statement .nop := rfl
theorem undoc (op : Byte) (o : UndocOperand) : Statement (.undoc op o) := undocOperandBytes_length o

end Laws.Length

namespace Laws.Opcode

/-- An instruction is well formed exactly when an opcode stands for it. -/
def Statement (i : Instr) : Prop := i.WellFormed ↔ (opcode i).isSome = true

theorem lda (o : ReadOperand) : Statement (.lda o) := by
  cases o with
  | immediate b => exact Iff.of_eq rfl
  | memory m => cases m <;> exact Iff.of_eq rfl
theorem ldx (o : ReadOperand) : Statement (.ldx o) := by
  cases o with
  | immediate b => exact Iff.of_eq rfl
  | memory m => cases m <;> exact Iff.of_eq rfl
theorem ldy (o : ReadOperand) : Statement (.ldy o) := by
  cases o with
  | immediate b => exact Iff.of_eq rfl
  | memory m => cases m <;> exact Iff.of_eq rfl
theorem sta (m : MemOperand) : Statement (.sta m) := by
  cases m <;> exact Iff.of_eq rfl
theorem stx (m : MemOperand) : Statement (.stx m) := by
  cases m <;> exact Iff.of_eq rfl
theorem sty (m : MemOperand) : Statement (.sty m) := by
  cases m <;> exact Iff.of_eq rfl
theorem tax : Statement .tax := Iff.of_eq rfl
theorem tay : Statement .tay := Iff.of_eq rfl
theorem txa : Statement .txa := Iff.of_eq rfl
theorem tya : Statement .tya := Iff.of_eq rfl
theorem tsx : Statement .tsx := Iff.of_eq rfl
theorem txs : Statement .txs := Iff.of_eq rfl
theorem ora (o : ReadOperand) : Statement (.ora o) := by
  cases o with
  | immediate b => exact Iff.of_eq rfl
  | memory m => cases m <;> exact Iff.of_eq rfl
theorem and (o : ReadOperand) : Statement (.and o) := by
  cases o with
  | immediate b => exact Iff.of_eq rfl
  | memory m => cases m <;> exact Iff.of_eq rfl
theorem eor (o : ReadOperand) : Statement (.eor o) := by
  cases o with
  | immediate b => exact Iff.of_eq rfl
  | memory m => cases m <;> exact Iff.of_eq rfl
theorem adc (o : ReadOperand) : Statement (.adc o) := by
  cases o with
  | immediate b => exact Iff.of_eq rfl
  | memory m => cases m <;> exact Iff.of_eq rfl
theorem sbc (o : ReadOperand) : Statement (.sbc o) := by
  cases o with
  | immediate b => exact Iff.of_eq rfl
  | memory m => cases m <;> exact Iff.of_eq rfl
theorem cmp (o : ReadOperand) : Statement (.cmp o) := by
  cases o with
  | immediate b => exact Iff.of_eq rfl
  | memory m => cases m <;> exact Iff.of_eq rfl
theorem cpx (o : ReadOperand) : Statement (.cpx o) := by
  cases o with
  | immediate b => exact Iff.of_eq rfl
  | memory m => cases m <;> exact Iff.of_eq rfl
theorem cpy (o : ReadOperand) : Statement (.cpy o) := by
  cases o with
  | immediate b => exact Iff.of_eq rfl
  | memory m => cases m <;> exact Iff.of_eq rfl
theorem bit (m : MemOperand) : Statement (.bit m) := by
  cases m <;> exact Iff.of_eq rfl
theorem inc (m : MemOperand) : Statement (.inc m) := by
  cases m <;> exact Iff.of_eq rfl
theorem dec (m : MemOperand) : Statement (.dec m) := by
  cases m <;> exact Iff.of_eq rfl
theorem inx : Statement .inx := Iff.of_eq rfl
theorem iny : Statement .iny := Iff.of_eq rfl
theorem dex : Statement .dex := Iff.of_eq rfl
theorem dey : Statement .dey := Iff.of_eq rfl
theorem asl (o : ShiftOperand) : Statement (.asl o) := by
  cases o with
  | accumulator => exact Iff.of_eq rfl
  | memory m => cases m <;> exact Iff.of_eq rfl
theorem lsr (o : ShiftOperand) : Statement (.lsr o) := by
  cases o with
  | accumulator => exact Iff.of_eq rfl
  | memory m => cases m <;> exact Iff.of_eq rfl
theorem rol (o : ShiftOperand) : Statement (.rol o) := by
  cases o with
  | accumulator => exact Iff.of_eq rfl
  | memory m => cases m <;> exact Iff.of_eq rfl
theorem ror (o : ShiftOperand) : Statement (.ror o) := by
  cases o with
  | accumulator => exact Iff.of_eq rfl
  | memory m => cases m <;> exact Iff.of_eq rfl
theorem bpl (d : Byte) : Statement (.bpl d) := Iff.of_eq rfl
theorem bmi (d : Byte) : Statement (.bmi d) := Iff.of_eq rfl
theorem bvc (d : Byte) : Statement (.bvc d) := Iff.of_eq rfl
theorem bvs (d : Byte) : Statement (.bvs d) := Iff.of_eq rfl
theorem bcc (d : Byte) : Statement (.bcc d) := Iff.of_eq rfl
theorem bcs (d : Byte) : Statement (.bcs d) := Iff.of_eq rfl
theorem bne (d : Byte) : Statement (.bne d) := Iff.of_eq rfl
theorem beq (d : Byte) : Statement (.beq d) := Iff.of_eq rfl
theorem jmp (o : JumpOperand) : Statement (.jmp o) := by
  cases o <;> exact Iff.of_eq rfl
theorem jsr (a : Word) : Statement (.jsr a) := Iff.of_eq rfl
theorem rts : Statement .rts := Iff.of_eq rfl
theorem brk : Statement .brk := Iff.of_eq rfl
theorem rti : Statement .rti := Iff.of_eq rfl
theorem pha : Statement .pha := Iff.of_eq rfl
theorem php : Statement .php := Iff.of_eq rfl
theorem pla : Statement .pla := Iff.of_eq rfl
theorem plp : Statement .plp := Iff.of_eq rfl
theorem clc : Statement .clc := Iff.of_eq rfl
theorem sec : Statement .sec := Iff.of_eq rfl
theorem cli : Statement .cli := Iff.of_eq rfl
theorem sei : Statement .sei := Iff.of_eq rfl
theorem clv : Statement .clv := Iff.of_eq rfl
theorem cld : Statement .cld := Iff.of_eq rfl
theorem sed : Statement .sed := Iff.of_eq rfl
theorem nop : Statement .nop := Iff.of_eq rfl
theorem undoc (op : Byte) (o : UndocOperand) : Statement (.undoc op o) := by
  simp [Statement, Instr.WellFormed, Instr.wellFormed, opcode]

end Laws.Opcode

end Sys2Proof
end

