-- ==== Sys2Proof/Laws/Timer.lean ====
section
/-! SUPPORT. What the scanline timer can do: it counts, and it writes bit 7 of PPUSTATUS. -/

namespace Sys2Proof.Machine

/-- A tick writes the counter and at most the PPUSTATUS cell. -/
theorem ppuTick_rest (s : State) :
    ppuTick s = { s with mem := (ppuTick s).mem, ppuCycle := (ppuTick s).ppuCycle } := by
  unfold ppuTick
  simp only []
  split <;> split <;> rfl

theorem ppuTicks_rest (k : Nat) (s : State) :
    ppuTicks k s =
      { s with mem := (ppuTicks k s).mem, ppuCycle := (ppuTicks k s).ppuCycle } := by
  induction k generalizing s with
  | zero => rfl
  | succ k ih =>
    simp only [ppuTicks]
    rw [ih (ppuTick s), ppuTick_rest s]

/-- The counter wraps at the end of the frame. -/
theorem ppuTick_ppuCycle (s : State) :
    (ppuTick s).ppuCycle = if s.ppuCycle + 1 = frameCycles then 0 else s.ppuCycle + 1 := by
  unfold ppuTick
  simp only []
  split <;> split <;> rfl

theorem ppuTick_cell (s : State) (b : Word) (h : b ≠ ppuStatus) :
    cell (ppuTick s) b = cell s b := by
  unfold ppuTick
  simp only []
  split <;> split
  · exact (cell_setCell_ne _ _ h).trans (cell_setCell_ne _ _ h)
  · exact cell_setCell_ne _ _ h
  · exact cell_setCell_ne _ _ h
  · rfl

/-- The timer leaves every cell but PPUSTATUS. -/
theorem ppuTicks_cell (k : Nat) (s : State) (b : Word) (h : b ≠ ppuStatus) :
    cell (ppuTicks k s) b = cell s b := by
  induction k generalizing s with
  | zero => rfl
  | succ k ih => exact (ih (ppuTick s)).trans (ppuTick_cell s b h)

theorem ppuTick_wf (s : State) (h : Memory.wf s.mem) : Memory.wf (ppuTick s).mem := by
  unfold ppuTick
  simp only []
  split <;> split
  · exact setCell_wf _ _ _ (setCell_wf _ _ _ h)
  · exact setCell_wf _ _ _ h
  · exact setCell_wf _ _ _ h
  · exact h

theorem ppuTicks_wf (k : Nat) (s : State) (h : Memory.wf s.mem) : Memory.wf (ppuTicks k s).mem := by
  induction k generalizing s with
  | zero => exact h
  | succ k ih => exact ih _ (ppuTick_wf s h)

/-- The counter stays within the frame. -/
theorem ppuTicks_bound (k : Nat) (s : State) (h : s.ppuCycle < frameCycles) :
    (ppuTicks k s).ppuCycle < frameCycles := by
  induction k generalizing s with
  | zero => exact h
  | succ k ih =>
    refine ih _ ?_
    rw [ppuTick_ppuCycle]
    split <;> omega

/-- The step's bookkeeping touches the counter, the PPUSTATUS cell and the total. -/
theorem accountCycles_eq (c : Nat) (s : State) :
    accountCycles c s =
      { ppuTicks (3 * c) s with cycleTotal := s.cycleTotal + c } := by
  have h : (ppuTicks (3 * c) s).cycleTotal = s.cycleTotal := by rw [ppuTicks_rest]
  simp only [accountCycles, ppuUpdate, h]

end Sys2Proof.Machine
end

