-- ==== Sys2Proof/Tests/Slice0.lean ====
section
/-! SUPPORT. The model's own tests: the WellFormed smoke, every constructor decoded from words of the
spec's encoding tables, worked vectors of 95_test_vectors.md, and a witness for the hypotheses of
each statement in Obligations.lean that has any. Expected values are the spec's. -/

namespace Sys2Proof.Tests

open Sys2Proof Sys2Proof.Machine

/-! ## Helpers -/

/-- The reset state, from which every vector starts. -/
def start : State := State.reset

/-- Cells set one by one. -/
def fill : List (Word × Byte) → State → State
  | [], s => s
  | c :: cs, s => fill cs (setCell c.1 c.2 s)

/-- Code at an address; in ROM both copies hold it. -/
def place (a : Word) : List Byte → State → State
  | [], s => s
  | b :: bs, s =>
    place (a + 1) bs (if 0x8000 ≤ a.toNat then setCell (a ^^^ 0x4000) b (setCell a b s)
      else setCell a b s)

/-- The state after one step from code at an address. -/
def after (a : Word) (code : List Byte) (s : State) : Option State :=
  match step { place a code s with pc := a } with
  | .next t => some t
  | _ => none

/-- The CPU registers as the vectors list them, and the cycles counted. -/
structure Regs where
  a : Byte
  x : Byte
  y : Byte
  sp : Byte
  pc : Word
  p : Byte
  cycles : Nat
deriving DecidableEq, Repr

def regs (t : State) : Regs := ⟨t.a, t.x, t.y, t.sp, t.pc, t.p.toByte, t.cycleTotal⟩

/-- The BRK vector 0x9000 in both copies of the ROM. -/
def brkVector (s : State) : State :=
  fill [(0xFFFE, 0x00), (0xFFFF, 0x90), (0xBFFE, 0x00), (0xBFFF, 0x90)] s

/-! ## WellFormed smoke: an ill-formed term for each check -/

theorem test_wf_refuses_lda_zero_page_y : ¬ (Instr.lda (.memory (.zeroPageY 0))).WellFormed := by
  decide

theorem test_wf_refuses_sbc_zero_page_y : ¬ (Instr.sbc (.memory (.zeroPageY 0))).WellFormed := by
  decide

theorem test_wf_refuses_ldx_zero_page_x : ¬ (Instr.ldx (.memory (.zeroPageX 0))).WellFormed := by
  decide

theorem test_wf_refuses_ldy_zero_page_y : ¬ (Instr.ldy (.memory (.zeroPageY 0))).WellFormed := by
  decide

theorem test_wf_refuses_cpx_absolute_x : ¬ (Instr.cpx (.memory (.absoluteX 0))).WellFormed := by
  decide

theorem test_wf_refuses_cpy_indirect : ¬ (Instr.cpy (.memory (.indirectIndexed 0))).WellFormed := by
  decide

theorem test_wf_refuses_sta_zero_page_y : ¬ (Instr.sta (.zeroPageY 0)).WellFormed := by decide

theorem test_wf_refuses_stx_zero_page_x : ¬ (Instr.stx (.zeroPageX 0)).WellFormed := by decide

theorem test_wf_refuses_sty_zero_page_y : ¬ (Instr.sty (.zeroPageY 0)).WellFormed := by decide

theorem test_wf_refuses_bit_zero_page_x : ¬ (Instr.bit (.zeroPageX 0)).WellFormed := by decide

theorem test_wf_refuses_inc_absolute_y : ¬ (Instr.inc (.absoluteY 0)).WellFormed := by decide

theorem test_wf_refuses_dec_indirect : ¬ (Instr.dec (.indexedIndirect 0)).WellFormed := by decide

theorem test_wf_refuses_asl_absolute_y : ¬ (Instr.asl (.memory (.absoluteY 0))).WellFormed := by
  decide

theorem test_wf_refuses_ror_zero_page_y : ¬ (Instr.ror (.memory (.zeroPageY 0))).WellFormed := by
  decide

theorem test_wf_refuses_documented_undoc : ¬ (Instr.undoc 0xEA .implied).WellFormed := by decide

theorem test_wf_refuses_undoc_mode : ¬ (Instr.undoc 0x04 .implied).WellFormed := by decide

/-! ## Decoding -/

/-- The Encoding parts of R140. -/
theorem test_decode_lda : ([
    (0xA9, .lda (.immediate 0x34)), (0xA5, .lda (.memory (.zeroPage 0x34))),
    (0xB5, .lda (.memory (.zeroPageX 0x34))), (0xAD, .lda (.memory (.absolute 0x1234))),
    (0xBD, .lda (.memory (.absoluteX 0x1234))), (0xB9, .lda (.memory (.absoluteY 0x1234))),
    (0xA1, .lda (.memory (.indexedIndirect 0x34))),
    (0xB1, .lda (.memory (.indirectIndexed 0x34)))] :
    List (Byte × Instr)).all
    (fun r => decode [r.1, 0x34, 0x12] == .ok (r.2, [0x34, 0x12].drop (r.2.length - 1))) = true := by
  decide

/-- The Encoding parts of R141, R142. -/
theorem test_decode_ldx_ldy : ([
    (0xA2, .ldx (.immediate 0x34)), (0xA6, .ldx (.memory (.zeroPage 0x34))),
    (0xB6, .ldx (.memory (.zeroPageY 0x34))), (0xAE, .ldx (.memory (.absolute 0x1234))),
    (0xBE, .ldx (.memory (.absoluteY 0x1234))), (0xA0, .ldy (.immediate 0x34)),
    (0xA4, .ldy (.memory (.zeroPage 0x34))), (0xB4, .ldy (.memory (.zeroPageX 0x34))),
    (0xAC, .ldy (.memory (.absolute 0x1234))), (0xBC, .ldy (.memory (.absoluteX 0x1234)))] :
    List (Byte × Instr)).all
    (fun r => decode [r.1, 0x34, 0x12] == .ok (r.2, [0x34, 0x12].drop (r.2.length - 1))) = true := by
  decide

/-- The Encoding parts of R143, R144, R145. -/
theorem test_decode_sta_stx_sty : ([
    (0x85, .sta (.zeroPage 0x34)), (0x95, .sta (.zeroPageX 0x34)),
    (0x8D, .sta (.absolute 0x1234)), (0x9D, .sta (.absoluteX 0x1234)),
    (0x99, .sta (.absoluteY 0x1234)), (0x81, .sta (.indexedIndirect 0x34)),
    (0x91, .sta (.indirectIndexed 0x34)), (0x86, .stx (.zeroPage 0x34)),
    (0x96, .stx (.zeroPageY 0x34)), (0x8E, .stx (.absolute 0x1234)),
    (0x84, .sty (.zeroPage 0x34)), (0x94, .sty (.zeroPageX 0x34)),
    (0x8C, .sty (.absolute 0x1234))] :
    List (Byte × Instr)).all
    (fun r => decode [r.1, 0x34, 0x12] == .ok (r.2, [0x34, 0x12].drop (r.2.length - 1))) = true := by
  decide

/-- The Encoding parts of R161. -/
theorem test_decode_ora : ([
    (0x09, .ora (.immediate 0x34)), (0x05, .ora (.memory (.zeroPage 0x34))),
    (0x15, .ora (.memory (.zeroPageX 0x34))), (0x0D, .ora (.memory (.absolute 0x1234))),
    (0x1D, .ora (.memory (.absoluteX 0x1234))), (0x19, .ora (.memory (.absoluteY 0x1234))),
    (0x01, .ora (.memory (.indexedIndirect 0x34))),
    (0x11, .ora (.memory (.indirectIndexed 0x34)))] :
    List (Byte × Instr)).all
    (fun r => decode [r.1, 0x34, 0x12] == .ok (r.2, [0x34, 0x12].drop (r.2.length - 1))) = true := by
  decide

/-- The Encoding parts of R162. -/
theorem test_decode_and : ([
    (0x29, .and (.immediate 0x34)), (0x25, .and (.memory (.zeroPage 0x34))),
    (0x35, .and (.memory (.zeroPageX 0x34))), (0x2D, .and (.memory (.absolute 0x1234))),
    (0x3D, .and (.memory (.absoluteX 0x1234))), (0x39, .and (.memory (.absoluteY 0x1234))),
    (0x21, .and (.memory (.indexedIndirect 0x34))),
    (0x31, .and (.memory (.indirectIndexed 0x34)))] :
    List (Byte × Instr)).all
    (fun r => decode [r.1, 0x34, 0x12] == .ok (r.2, [0x34, 0x12].drop (r.2.length - 1))) = true := by
  decide

/-- The Encoding parts of R163. -/
theorem test_decode_eor : ([
    (0x49, .eor (.immediate 0x34)), (0x45, .eor (.memory (.zeroPage 0x34))),
    (0x55, .eor (.memory (.zeroPageX 0x34))), (0x4D, .eor (.memory (.absolute 0x1234))),
    (0x5D, .eor (.memory (.absoluteX 0x1234))), (0x59, .eor (.memory (.absoluteY 0x1234))),
    (0x41, .eor (.memory (.indexedIndirect 0x34))),
    (0x51, .eor (.memory (.indirectIndexed 0x34)))] :
    List (Byte × Instr)).all
    (fun r => decode [r.1, 0x34, 0x12] == .ok (r.2, [0x34, 0x12].drop (r.2.length - 1))) = true := by
  decide

/-- The Encoding parts of R164. -/
theorem test_decode_adc : ([
    (0x69, .adc (.immediate 0x34)), (0x65, .adc (.memory (.zeroPage 0x34))),
    (0x75, .adc (.memory (.zeroPageX 0x34))), (0x6D, .adc (.memory (.absolute 0x1234))),
    (0x7D, .adc (.memory (.absoluteX 0x1234))), (0x79, .adc (.memory (.absoluteY 0x1234))),
    (0x61, .adc (.memory (.indexedIndirect 0x34))),
    (0x71, .adc (.memory (.indirectIndexed 0x34)))] :
    List (Byte × Instr)).all
    (fun r => decode [r.1, 0x34, 0x12] == .ok (r.2, [0x34, 0x12].drop (r.2.length - 1))) = true := by
  decide

/-- The Encoding parts of R165. -/
theorem test_decode_sbc : ([
    (0xE9, .sbc (.immediate 0x34)), (0xE5, .sbc (.memory (.zeroPage 0x34))),
    (0xF5, .sbc (.memory (.zeroPageX 0x34))), (0xED, .sbc (.memory (.absolute 0x1234))),
    (0xFD, .sbc (.memory (.absoluteX 0x1234))), (0xF9, .sbc (.memory (.absoluteY 0x1234))),
    (0xE1, .sbc (.memory (.indexedIndirect 0x34))),
    (0xF1, .sbc (.memory (.indirectIndexed 0x34)))] :
    List (Byte × Instr)).all
    (fun r => decode [r.1, 0x34, 0x12] == .ok (r.2, [0x34, 0x12].drop (r.2.length - 1))) = true := by
  decide

/-- The Encoding parts of R166, R167, R168. -/
theorem test_decode_cmp_cpx_cpy : ([
    (0xC9, .cmp (.immediate 0x34)), (0xC5, .cmp (.memory (.zeroPage 0x34))),
    (0xD5, .cmp (.memory (.zeroPageX 0x34))), (0xCD, .cmp (.memory (.absolute 0x1234))),
    (0xDD, .cmp (.memory (.absoluteX 0x1234))), (0xD9, .cmp (.memory (.absoluteY 0x1234))),
    (0xC1, .cmp (.memory (.indexedIndirect 0x34))),
    (0xD1, .cmp (.memory (.indirectIndexed 0x34))), (0xE0, .cpx (.immediate 0x34)),
    (0xE4, .cpx (.memory (.zeroPage 0x34))), (0xEC, .cpx (.memory (.absolute 0x1234))),
    (0xC0, .cpy (.immediate 0x34)), (0xC4, .cpy (.memory (.zeroPage 0x34))),
    (0xCC, .cpy (.memory (.absolute 0x1234)))] :
    List (Byte × Instr)).all
    (fun r => decode [r.1, 0x34, 0x12] == .ok (r.2, [0x34, 0x12].drop (r.2.length - 1))) = true := by
  decide

/-- The Encoding parts of R169, R170, R171. -/
theorem test_decode_bit_inc_dec : ([
    (0x24, .bit (.zeroPage 0x34)), (0x2C, .bit (.absolute 0x1234)),
    (0xE6, .inc (.zeroPage 0x34)), (0xF6, .inc (.zeroPageX 0x34)),
    (0xEE, .inc (.absolute 0x1234)), (0xFE, .inc (.absoluteX 0x1234)),
    (0xC6, .dec (.zeroPage 0x34)), (0xD6, .dec (.zeroPageX 0x34)),
    (0xCE, .dec (.absolute 0x1234)), (0xDE, .dec (.absoluteX 0x1234))] :
    List (Byte × Instr)).all
    (fun r => decode [r.1, 0x34, 0x12] == .ok (r.2, [0x34, 0x12].drop (r.2.length - 1))) = true := by
  decide

/-- The Encoding parts of R176, R177. -/
theorem test_decode_asl_lsr : ([
    (0x0A, .asl .accumulator), (0x06, .asl (.memory (.zeroPage 0x34))),
    (0x16, .asl (.memory (.zeroPageX 0x34))), (0x0E, .asl (.memory (.absolute 0x1234))),
    (0x1E, .asl (.memory (.absoluteX 0x1234))), (0x4A, .lsr .accumulator),
    (0x46, .lsr (.memory (.zeroPage 0x34))), (0x56, .lsr (.memory (.zeroPageX 0x34))),
    (0x4E, .lsr (.memory (.absolute 0x1234))), (0x5E, .lsr (.memory (.absoluteX 0x1234)))] :
    List (Byte × Instr)).all
    (fun r => decode [r.1, 0x34, 0x12] == .ok (r.2, [0x34, 0x12].drop (r.2.length - 1))) = true := by
  decide

/-- The Encoding parts of R178, R179. -/
theorem test_decode_rol_ror : ([
    (0x2A, .rol .accumulator), (0x26, .rol (.memory (.zeroPage 0x34))),
    (0x36, .rol (.memory (.zeroPageX 0x34))), (0x2E, .rol (.memory (.absolute 0x1234))),
    (0x3E, .rol (.memory (.absoluteX 0x1234))), (0x6A, .ror .accumulator),
    (0x66, .ror (.memory (.zeroPage 0x34))), (0x76, .ror (.memory (.zeroPageX 0x34))),
    (0x6E, .ror (.memory (.absolute 0x1234))), (0x7E, .ror (.memory (.absoluteX 0x1234)))] :
    List (Byte × Instr)).all
    (fun r => decode [r.1, 0x34, 0x12] == .ok (r.2, [0x34, 0x12].drop (r.2.length - 1))) = true := by
  decide

/-- R95. -/
theorem test_decode_implied : ([
    (0x08, .php), (0x28, .plp), (0x48, .pha), (0x68, .pla), (0x88, .dey), (0xA8, .tay),
    (0xC8, .iny), (0xE8, .inx), (0x18, .clc), (0x38, .sec), (0x58, .cli), (0x78, .sei),
    (0x98, .tya), (0xB8, .clv), (0xD8, .cld), (0xF8, .sed), (0x8A, .txa), (0xAA, .tax),
    (0xCA, .dex), (0xEA, .nop), (0x9A, .txs), (0xBA, .tsx)] :
    List (Byte × Instr)).all
    (fun r => decode [r.1, 0x34, 0x12] == .ok (r.2, [0x34, 0x12].drop (r.2.length - 1))) = true := by
  decide

/-- R93, R94, R199, R200. -/
theorem test_decode_sub_branch_jump : ([
    (0x00, .brk), (0x20, .jsr 0x1234), (0x40, .rti), (0x60, .rts), (0x10, .bpl 0x34),
    (0x30, .bmi 0x34), (0x50, .bvc 0x34), (0x70, .bvs 0x34), (0x90, .bcc 0x34),
    (0xB0, .bcs 0x34), (0xD0, .bne 0x34), (0xF0, .beq 0x34), (0x4C, .jmp (.absolute 0x1234)),
    (0x6C, .jmp (.indirect 0x1234))] :
    List (Byte × Instr)).all
    (fun r => decode [r.1, 0x34, 0x12] == .ok (r.2, [0x34, 0x12].drop (r.2.length - 1))) = true := by
  decide

/-- R224, rows 1 to 35: opcode, mode, length, cycles, +1 if crossed. -/
theorem test_undocumented_1 : ([
    (0x02, .implied, 1, 2, false), (0x03, .indexedIndirect, 2, 8, false),
    (0x04, .zeroPage, 2, 3, false), (0x07, .zeroPage, 2, 5, false),
    (0x0B, .immediate, 2, 2, false), (0x0C, .absolute, 3, 4, false),
    (0x0F, .absolute, 3, 6, false), (0x12, .implied, 1, 2, false),
    (0x13, .indirectIndexed, 2, 8, false), (0x14, .zeroPageX, 2, 4, false),
    (0x17, .zeroPageX, 2, 6, false), (0x1A, .implied, 1, 2, false),
    (0x1B, .absoluteY, 3, 7, false), (0x1C, .absoluteX, 3, 4, true),
    (0x1F, .absoluteX, 3, 7, false), (0x22, .implied, 1, 2, false),
    (0x23, .indexedIndirect, 2, 8, false), (0x27, .zeroPage, 2, 5, false),
    (0x2B, .immediate, 2, 2, false), (0x2F, .absolute, 3, 6, false),
    (0x32, .implied, 1, 2, false), (0x33, .indirectIndexed, 2, 8, false),
    (0x34, .zeroPageX, 2, 4, false), (0x37, .zeroPageX, 2, 6, false),
    (0x3A, .implied, 1, 2, false), (0x3B, .absoluteY, 3, 7, false),
    (0x3C, .absoluteX, 3, 4, true), (0x3F, .absoluteX, 3, 7, false),
    (0x42, .implied, 1, 2, false), (0x43, .indexedIndirect, 2, 8, false),
    (0x44, .zeroPage, 2, 3, false), (0x47, .zeroPage, 2, 5, false),
    (0x4B, .immediate, 2, 2, false), (0x4F, .absolute, 3, 6, false),
    (0x52, .implied, 1, 2, false)] : List (Byte × Mode × Nat × Nat × Bool)).all
    (fun r => isUndocumented r.1 && undocMode r.1 == r.2.1 && (undocMode r.1).length == r.2.2.1 &&
      undocCycles r.1 == r.2.2.2.1 && undocPenalty r.1 == r.2.2.2.2 &&
      (decodeOp r.1 0x34 0x12).mode == r.2.1) = true := by
  decide

/-- R224, rows 36 to 70: opcode, mode, length, cycles, +1 if crossed. -/
theorem test_undocumented_2 : ([
    (0x53, .indirectIndexed, 2, 8, false), (0x54, .zeroPageX, 2, 4, false),
    (0x57, .zeroPageX, 2, 6, false), (0x5A, .implied, 1, 2, false),
    (0x5B, .absoluteY, 3, 7, false), (0x5C, .absoluteX, 3, 4, true),
    (0x5F, .absoluteX, 3, 7, false), (0x62, .implied, 1, 2, false),
    (0x63, .indexedIndirect, 2, 8, false), (0x64, .zeroPage, 2, 3, false),
    (0x67, .zeroPage, 2, 5, false), (0x6B, .immediate, 2, 2, false),
    (0x6F, .absolute, 3, 6, false), (0x72, .implied, 1, 2, false),
    (0x73, .indirectIndexed, 2, 8, false), (0x74, .zeroPageX, 2, 4, false),
    (0x77, .zeroPageX, 2, 6, false), (0x7A, .implied, 1, 2, false),
    (0x7B, .absoluteY, 3, 7, false), (0x7C, .absoluteX, 3, 4, true),
    (0x7F, .absoluteX, 3, 7, false), (0x80, .immediate, 2, 2, false),
    (0x82, .immediate, 2, 2, false), (0x83, .indexedIndirect, 2, 6, false),
    (0x87, .zeroPage, 2, 3, false), (0x89, .immediate, 2, 2, false),
    (0x8B, .immediate, 2, 2, false), (0x8F, .absolute, 3, 4, false),
    (0x92, .implied, 1, 2, false), (0x93, .indirectIndexed, 2, 6, false),
    (0x97, .zeroPageY, 2, 4, false), (0x9B, .absoluteY, 3, 5, false),
    (0x9C, .absoluteX, 3, 5, false), (0x9E, .absoluteY, 3, 5, false),
    (0x9F, .absoluteY, 3, 5, false)] : List (Byte × Mode × Nat × Nat × Bool)).all
    (fun r => isUndocumented r.1 && undocMode r.1 == r.2.1 && (undocMode r.1).length == r.2.2.1 &&
      undocCycles r.1 == r.2.2.2.1 && undocPenalty r.1 == r.2.2.2.2 &&
      (decodeOp r.1 0x34 0x12).mode == r.2.1) = true := by
  decide

/-- R224, rows 71 to 105: opcode, mode, length, cycles, +1 if crossed. -/
theorem test_undocumented_3 : ([
    (0xA3, .indexedIndirect, 2, 6, false), (0xA7, .zeroPage, 2, 3, false),
    (0xAB, .immediate, 2, 2, false), (0xAF, .absolute, 3, 4, false),
    (0xB2, .implied, 1, 2, false), (0xB3, .indirectIndexed, 2, 5, true),
    (0xB7, .zeroPageY, 2, 4, false), (0xBB, .absoluteY, 3, 4, true),
    (0xBF, .absoluteY, 3, 4, true), (0xC2, .immediate, 2, 2, false),
    (0xC3, .indexedIndirect, 2, 8, false), (0xC7, .zeroPage, 2, 5, false),
    (0xCB, .immediate, 2, 2, false), (0xCF, .absolute, 3, 6, false),
    (0xD2, .implied, 1, 2, false), (0xD3, .indirectIndexed, 2, 8, false),
    (0xD4, .zeroPageX, 2, 4, false), (0xD7, .zeroPageX, 2, 6, false),
    (0xDA, .implied, 1, 2, false), (0xDB, .absoluteY, 3, 7, false),
    (0xDC, .absoluteX, 3, 4, true), (0xDF, .absoluteX, 3, 7, false),
    (0xE2, .immediate, 2, 2, false), (0xE3, .indexedIndirect, 2, 8, false),
    (0xE7, .zeroPage, 2, 5, false), (0xEB, .immediate, 2, 2, false),
    (0xEF, .absolute, 3, 6, false), (0xF2, .implied, 1, 2, false),
    (0xF3, .indirectIndexed, 2, 8, false), (0xF4, .zeroPageX, 2, 4, false),
    (0xF7, .zeroPageX, 2, 6, false), (0xFA, .implied, 1, 2, false),
    (0xFB, .absoluteY, 3, 7, false), (0xFC, .absoluteX, 3, 4, true),
    (0xFF, .absoluteX, 3, 7, false)] : List (Byte × Mode × Nat × Nat × Bool)).all
    (fun r => isUndocumented r.1 && undocMode r.1 == r.2.1 && (undocMode r.1).length == r.2.2.1 &&
      undocCycles r.1 == r.2.2.2.1 && undocPenalty r.1 == r.2.2.2.2 &&
      (decodeOp r.1 0x34 0x12).mode == r.2.1) = true := by
  decide

/-- The empty and the truncated inputs are rejected by name; trailing bytes are returned. -/
theorem test_decode_rejects :
    (match decode [] with | .error .empty => true | _ => false) = true ∧
    (match decode [0xA9] with | .error .truncated => true | _ => false) = true ∧
    (match decode [0x4C, 0x00] with | .error .truncated => true | _ => false) = true ∧
    (match decode [0xEA, 0x01] with | .ok (.nop, [0x01]) => true | _ => false) = true := by decide

/-- The numbering of the opcode table: the second byte is bits 15..8. -/
theorem test_decodeTableWord :
    decodeTableWord 8 0xEA = some .nop ∧ decodeTableWord 24 0x900020 = some (.jsr 0x9000) ∧
    decodeTableWord 16 0xFCF0 = some (.beq 0xFC) ∧ decodeTableWord 8 0xAD =
      some (.lda (.memory (.absolute 0))) := by decide

/-- The placed instruction is the first that runs after reset. -/
theorem test_withFetchWord :
    (match step (State.reset.withFetchWord 16 0x80A9) with
      | .next t => some (regs t)
      | _ => none) = some ⟨0x80, 0x00, 0x00, 0xFD, 0x0002, 0xB4, 2⟩ := by decide

/-- From the faulted state the placed instruction runs too. -/
theorem test_withFetchWord_faulted :
    (match step ({ State.reset with faulted := true, faultReason := some 0x02 }.withFetchWord 8 0xE8)
      with
      | .next t => some (t.x, t.faulted)
      | _ => none) = some (0x01, false) := by decide

/-! ## Vectors: loads, stores, transfers (95_test_vectors.md 2.1) -/

/-- T5 (R140, R129). -/
theorem test_lda_indexed_indirect_wrap :
    (after 0x8000 [0xA1, 0xFE]
      (fill [(0x0000, 0x03), (0x00FF, 0x00), (0x0300, 0x99)] { start with x := 0x01 })).map regs =
      some ⟨0x99, 0x01, 0x00, 0xFD, 0x8002, 0xB4, 6⟩ := by decide

/-- T6 (R140, R130, R283). -/
theorem test_lda_indirect_indexed_cross :
    (after 0x8000 [0xB1, 0x20]
      (fill [(0x0020, 0xF0), (0x0021, 0x02), (0x0310, 0x01)] { start with y := 0x20 })).map regs =
      some ⟨0x01, 0x00, 0x20, 0xFD, 0x8002, 0x34, 6⟩ := by decide

/-- T7 (R141, R125). -/
theorem test_ldx_zero_page_y :
    (after 0x8000 [0xB6, 0xF0] (fill [(0x0010, 0xFF)] { start with y := 0x20 })).map regs =
      some ⟨0x00, 0xFF, 0x20, 0xFD, 0x8002, 0xB4, 4⟩ := by decide

/-- T8 (R141, R128). -/
theorem test_ldx_absolute_y :
    (after 0x8000 [0xBE, 0x00, 0x02] (fill [(0x0205, 0x00)] { start with y := 0x05 })).map regs =
      some ⟨0x00, 0x00, 0x05, 0xFD, 0x8003, 0x36, 4⟩ := by decide

/-- T9 (R142). -/
theorem test_ldy_absolute_x :
    (after 0x8000 [0xBC, 0x00, 0x02] (fill [(0x0201, 0x7F)] { start with x := 0x01 })).map regs =
      some ⟨0x00, 0x01, 0x7F, 0xFD, 0x8003, 0x34, 4⟩ := by decide

/-- T11 (R143, R283). -/
theorem test_sta_no_penalty :
    (after 0x8000 [0x9D, 0xFF, 0x02]
      { start with a := 0x11, x := 0x01 }).map (fun t => (regs t, cell t 0x0300)) =
      some (⟨0x11, 0x01, 0x00, 0xFD, 0x8003, 0x34, 5⟩, 0x11) := by decide

/-- T12 (R143, R58). -/
theorem test_sta_rom_ignored :
    (after 0x8000 [0x8D, 0x00, 0x80] { start with a := 0x42 }).map regs =
      some ⟨0x42, 0x00, 0x00, 0xFD, 0x8003, 0x34, 4⟩ := by decide

/-- T14 (R144). -/
theorem test_stx_zero_page_y_wrap :
    (after 0x8000 [0x96, 0xFF]
      { start with x := 0x99, y := 0x02 }).map (fun t => (regs t, cell t 0x0001)) =
      some (⟨0x00, 0x99, 0x02, 0xFD, 0x8002, 0x34, 4⟩, 0x99) := by decide

/-- T15 (R145). -/
theorem test_sty_zero_page_x :
    (after 0x8000 [0x94, 0x10]
      { start with x := 0x01, y := 0x23 }).map (fun t => (regs t, cell t 0x0011)) =
      some (⟨0x00, 0x01, 0x23, 0xFD, 0x8002, 0x34, 4⟩, 0x23) := by decide

/-- T16 (R146). -/
theorem test_tax :
    (after 0x8000 [0xAA] { start with x := 0x12 }).map regs =
      some ⟨0x00, 0x00, 0x00, 0xFD, 0x8001, 0x36, 2⟩ := by decide

/-- T17 (R147). -/
theorem test_tay :
    (after 0x8000 [0xA8] { start with a := 0xFF }).map regs =
      some ⟨0xFF, 0x00, 0xFF, 0xFD, 0x8001, 0xB4, 2⟩ := by decide

/-- T18 (R148). -/
theorem test_txa :
    (after 0x8000 [0x8A] { start with a := 0x80, x := 0x01 }).map regs =
      some ⟨0x01, 0x01, 0x00, 0xFD, 0x8001, 0x34, 2⟩ := by decide

/-- T19 (R149). -/
theorem test_tya :
    (after 0x8000 [0x98] { start with y := 0x80 }).map regs =
      some ⟨0x80, 0x00, 0x80, 0xFD, 0x8001, 0xB4, 2⟩ := by decide

/-- T20 (R150). -/
theorem test_tsx :
    (after 0x8000 [0xBA] start).map regs =
      some ⟨0x00, 0xFD, 0x00, 0xFD, 0x8001, 0xB4, 2⟩ := by decide

/-- T21 (R151). -/
theorem test_txs :
    (after 0x8000 [0x9A] start).map regs =
      some ⟨0x00, 0x00, 0x00, 0x00, 0x8001, 0x34, 2⟩ := by decide

/-! ## Vectors: ALU (2.2) -/

/-- A1 (R161). -/
theorem test_ora :
    (after 0x8000 [0x09, 0x0F] { start with a := 0xF0 }).map regs =
      some ⟨0xFF, 0x00, 0x00, 0xFD, 0x8002, 0xB4, 2⟩ := by decide

/-- A2 (R162). -/
theorem test_and :
    (after 0x8000 [0x29, 0x0F] { start with a := 0xF0 }).map regs =
      some ⟨0x00, 0x00, 0x00, 0xFD, 0x8002, 0x36, 2⟩ := by decide

/-- A3 (R163). -/
theorem test_eor :
    (after 0x8000 [0x49, 0xFF] { start with a := 0x0F }).map regs =
      some ⟨0xF0, 0x00, 0x00, 0xFD, 0x8002, 0xB4, 2⟩ := by decide

/-- A4 (R164). -/
theorem test_adc_overflow :
    (after 0x8000 [0x69, 0x01] { start with a := 0x7F }).map regs =
      some ⟨0x80, 0x00, 0x00, 0xFD, 0x8002, 0xF4, 2⟩ := by decide

/-- A7 (R164, R29). -/
theorem test_adc_decimal_ignored :
    (after 0x8000 [0x69, 0x01] { start with a := 0x09, p := Flags.ofByte 0x3C }).map regs =
      some ⟨0x0A, 0x00, 0x00, 0xFD, 0x8002, 0x3C, 2⟩ := by decide

/-- A9 (R165). -/
theorem test_sbc_borrow :
    (after 0x8000 [0xE9, 0x01] { start with p := Flags.ofByte 0x35 }).map regs =
      some ⟨0xFF, 0x00, 0x00, 0xFD, 0x8002, 0xB4, 2⟩ := by decide

/-- A12 (R165). -/
theorem test_sbc_overflow :
    (after 0x8000 [0xE9, 0xFF] { start with a := 0x7F, p := Flags.ofByte 0x35 }).map regs =
      some ⟨0x80, 0x00, 0x00, 0xFD, 0x8002, 0xF4, 2⟩ := by decide

/-- A14 (R166). -/
theorem test_cmp_less :
    (after 0x8000 [0xC9, 0x43] { start with a := 0x42 }).map regs =
      some ⟨0x42, 0x00, 0x00, 0xFD, 0x8002, 0xB4, 2⟩ := by decide

/-- A15 (R166). -/
theorem test_cmp_greater :
    (after 0x8000 [0xC9, 0x01] { start with a := 0x90 }).map regs =
      some ⟨0x90, 0x00, 0x00, 0xFD, 0x8002, 0xB5, 2⟩ := by decide

/-- A16 (R167). -/
theorem test_cpx :
    (after 0x8000 [0xE0, 0x10] { start with x := 0x0F }).map regs =
      some ⟨0x00, 0x0F, 0x00, 0xFD, 0x8002, 0xB4, 2⟩ := by decide

/-- A17 (R168). -/
theorem test_cpy :
    (after 0x8000 [0xC4, 0x10] (fill [(0x0010, 0x10)] { start with y := 0x10 })).map regs =
      some ⟨0x00, 0x00, 0x10, 0xFD, 0x8002, 0x37, 3⟩ := by decide

/-- A18 (R169). -/
theorem test_bit_zero_page :
    (after 0x8000 [0x24, 0x10] (fill [(0x0010, 0xC0)] { start with a := 0x01 })).map regs =
      some ⟨0x01, 0x00, 0x00, 0xFD, 0x8002, 0xF6, 3⟩ := by decide

/-- A19 (R169). -/
theorem test_bit_absolute :
    (after 0x8000 [0x2C, 0x00, 0x02]
      (fill [(0x0200, 0x01)] { start with a := 0xFF, p := Flags.ofByte 0xF4 })).map regs =
      some ⟨0xFF, 0x00, 0x00, 0xFD, 0x8003, 0x34, 4⟩ := by decide

/-- A20 (R170). -/
theorem test_inc_wrap :
    (after 0x8000 [0xE6, 0x10]
      (fill [(0x0010, 0xFF)] start)).map (fun t => (regs t, cell t 0x0010)) =
      some (⟨0x00, 0x00, 0x00, 0xFD, 0x8002, 0x36, 5⟩, 0x00) := by decide

/-- A32 (R170, R134, R61). -/
theorem test_inc_ppudata :
    (after 0x8000 [0xEE, 0x07, 0x20]
      (fill [(0x2007, 0x10)] start)).map
      (fun t => (regs t, cell t 0x2007, t.vaddr, vramCell t 0x0000)) =
      some (⟨0x00, 0x00, 0x00, 0xFD, 0x8003, 0x34, 6⟩, 0x11, 0x0001, 0x11) := by decide

/-- A21 (R171). -/
theorem test_dec :
    (after 0x8000 [0xCE, 0x00, 0x02]
      (fill [(0x0200, 0x00)] start)).map (fun t => (regs t, cell t 0x0200)) =
      some (⟨0x00, 0x00, 0x00, 0xFD, 0x8003, 0xB4, 6⟩, 0xFF) := by decide

/-- A22 (R172). -/
theorem test_inx :
    (after 0x8000 [0xE8] { start with x := 0x7F }).map regs =
      some ⟨0x00, 0x80, 0x00, 0xFD, 0x8001, 0xB4, 2⟩ := by decide

/-- A23 (R173). -/
theorem test_iny :
    (after 0x8000 [0xC8] { start with y := 0xFF }).map regs =
      some ⟨0x00, 0x00, 0x00, 0xFD, 0x8001, 0x36, 2⟩ := by decide

/-- A24 (R174). -/
theorem test_dex :
    (after 0x8000 [0xCA] { start with x := 0x01 }).map regs =
      some ⟨0x00, 0x00, 0x00, 0xFD, 0x8001, 0x36, 2⟩ := by decide

/-- A25 (R175). -/
theorem test_dey :
    (after 0x8000 [0x88] start).map regs =
      some ⟨0x00, 0x00, 0xFF, 0xFD, 0x8001, 0xB4, 2⟩ := by decide

/-- A26 (R176). -/
theorem test_asl_accumulator :
    (after 0x8000 [0x0A] { start with a := 0x81 }).map regs =
      some ⟨0x02, 0x00, 0x00, 0xFD, 0x8001, 0x35, 2⟩ := by decide

/-- A27 (R176). -/
theorem test_asl_memory :
    (after 0x8000 [0x06, 0x10]
      (fill [(0x0010, 0x40)] start)).map (fun t => (regs t, cell t 0x0010)) =
      some (⟨0x00, 0x00, 0x00, 0xFD, 0x8002, 0xB4, 5⟩, 0x80) := by decide

/-- A28 (R177). -/
theorem test_lsr :
    (after 0x8000 [0x4A] { start with a := 0x01 }).map regs =
      some ⟨0x00, 0x00, 0x00, 0xFD, 0x8001, 0x37, 2⟩ := by decide

/-- A29 (R178). -/
theorem test_rol :
    (after 0x8000 [0x2A] { start with a := 0x80, p := Flags.ofByte 0x35 }).map regs =
      some ⟨0x01, 0x00, 0x00, 0xFD, 0x8001, 0x35, 2⟩ := by decide

/-- A30 (R179). -/
theorem test_ror_accumulator :
    (after 0x8000 [0x6A] { start with a := 0x01, p := Flags.ofByte 0x35 }).map regs =
      some ⟨0x80, 0x00, 0x00, 0xFD, 0x8001, 0xB5, 2⟩ := by decide

/-- A31 (R179). -/
theorem test_ror_memory :
    (after 0x8000 [0x7E, 0x00, 0x02]
      (fill [(0x0201, 0x02)] { start with x := 0x01 })).map (fun t => (regs t, cell t 0x0201)) =
      some (⟨0x00, 0x01, 0x00, 0xFD, 0x8003, 0x34, 7⟩, 0x01) := by decide

/-! ## Vectors: control transfer (2.3) -/

/-- C4 (R191, R284). -/
theorem test_bpl_taken_cross :
    (after 0x02F0 [0x10, 0x7F] start).map regs =
      some ⟨0x00, 0x00, 0x00, 0xFD, 0x0371, 0x34, 4⟩ := by decide

/-- C5 (R192). -/
theorem test_bmi_not_taken :
    (after 0x8000 [0x30, 0x10] start).map regs =
      some ⟨0x00, 0x00, 0x00, 0xFD, 0x8002, 0x34, 2⟩ := by decide

/-- C6 (R193). -/
theorem test_bvc_taken :
    (after 0x8000 [0x50, 0x10] start).map regs =
      some ⟨0x00, 0x00, 0x00, 0xFD, 0x8012, 0x34, 3⟩ := by decide

/-- C7 (R194). -/
theorem test_bvs_taken :
    (after 0x8000 [0x70, 0x10] { start with p := Flags.ofByte 0x74 }).map regs =
      some ⟨0x00, 0x00, 0x00, 0xFD, 0x8012, 0x74, 3⟩ := by decide

/-- C8 (R195). -/
theorem test_bcc_taken :
    (after 0x8000 [0x90, 0x00] start).map regs =
      some ⟨0x00, 0x00, 0x00, 0xFD, 0x8002, 0x34, 3⟩ := by decide

/-- C9 (R196). -/
theorem test_bcs_taken_cross :
    (after 0x8000 [0xB0, 0x80] { start with p := Flags.ofByte 0x35 }).map regs =
      some ⟨0x00, 0x00, 0x00, 0xFD, 0x7F82, 0x35, 4⟩ := by decide

/-- C2 (R197). -/
theorem test_bne_not_taken :
    (after 0x8000 [0xD0, 0x02] { start with p := Flags.ofByte 0x36 }).map regs =
      some ⟨0x00, 0x00, 0x00, 0xFD, 0x8002, 0x36, 2⟩ := by decide

/-- C3 (R198, R284). -/
theorem test_beq_taken_back :
    (after 0x8000 [0xF0, 0xFC] { start with p := Flags.ofByte 0x36 }).map regs =
      some ⟨0x00, 0x00, 0x00, 0xFD, 0x7FFE, 0x36, 4⟩ := by decide

/-- C10 (R199). -/
theorem test_jmp_absolute :
    (after 0x8000 [0x4C, 0x00, 0xC0] start).map regs =
      some ⟨0x00, 0x00, 0x00, 0xFD, 0xC000, 0x34, 3⟩ := by decide

/-- C11 (R200, R132). -/
theorem test_jmp_indirect_in_page :
    (after 0x8000 [0x6C, 0xFF, 0x02]
      (fill [(0x0200, 0x90), (0x02FF, 0x00), (0x0300, 0x55)] start)).map regs =
      some ⟨0x00, 0x00, 0x00, 0xFD, 0x9000, 0x34, 5⟩ := by decide

/-- C12 (R201). -/
theorem test_jsr :
    (after 0x8000 [0x20, 0x00, 0x90] start).map (fun t => (regs t, cell t 0x01FC, cell t 0x01FD)) =
      some (⟨0x00, 0x00, 0x00, 0xFB, 0x9000, 0x34, 6⟩, 0x02, 0x80) := by decide

/-- C17 (R201, R31). -/
theorem test_jsr_sp_wrap :
    (after 0x8000 [0x20, 0x00, 0x90]
      { start with sp := 0x00 }).map (fun t => (regs t, cell t 0x0100, cell t 0x01FF)) =
      some (⟨0x00, 0x00, 0x00, 0xFE, 0x9000, 0x34, 6⟩, 0x80, 0x02) := by decide

/-- C13 (R202). -/
theorem test_rts :
    (after 0x8000 [0x60]
      (fill [(0x01FC, 0x02), (0x01FD, 0x80)] { start with sp := 0xFB })).map regs =
      some ⟨0x00, 0x00, 0x00, 0xFD, 0x8003, 0x34, 6⟩ := by decide

/-- C14 (R202). -/
theorem test_rts_from_ffff :
    (after 0x8000 [0x60]
      (fill [(0x01FC, 0xFF), (0x01FD, 0xFF)] { start with sp := 0xFB })).map regs =
      some ⟨0x00, 0x00, 0x00, 0xFD, 0x0000, 0x34, 6⟩ := by decide

/-- C15 (R203). -/
theorem test_brk :
    (after 0x0400 [0x00]
      (brkVector start)).map (fun t => (regs t, cell t 0x01FB, cell t 0x01FC, cell t 0x01FD)) =
      some (⟨0x00, 0x00, 0x00, 0xFA, 0x9000, 0x34, 7⟩, 0x34, 0x02, 0x04) := by decide

/-- C16 (R204). -/
theorem test_rti :
    (after 0x8000 [0x40]
      (fill [(0x01FB, 0xC3), (0x01FC, 0x12), (0x01FD, 0x80)] { start with sp := 0xFA })).map regs =
      some ⟨0x00, 0x00, 0x00, 0xFD, 0x8012, 0xE3, 6⟩ := by decide

/-! ## Vectors: stack, flags (2.4) -/

/-- S2 (R210). -/
theorem test_pha_sp_wrap :
    (after 0x8000 [0x48]
      { start with a := 0x42, sp := 0x00 }).map (fun t => (regs t, cell t 0x0100)) =
      some (⟨0x42, 0x00, 0x00, 0xFF, 0x8001, 0x34, 3⟩, 0x42) := by decide

/-- S3 (R211). -/
theorem test_php :
    (after 0x8000 [0x08] start).map (fun t => (regs t, cell t 0x01FD)) =
      some (⟨0x00, 0x00, 0x00, 0xFC, 0x8001, 0x34, 3⟩, 0x34) := by decide

/-- S4 (R211). -/
theorem test_php_b_clear :
    (after 0x8000 [0x08]
      { start with p := Flags.ofByte 0x00 }).map (fun t => (regs t, cell t 0x01FD)) =
      some (⟨0x00, 0x00, 0x00, 0xFC, 0x8001, 0x20, 3⟩, 0x30) := by decide

/-- S6 (R212). -/
theorem test_pla_sp_wrap :
    (after 0x8000 [0x68] (fill [(0x0100, 0x00)] { start with sp := 0xFF })).map regs =
      some ⟨0x00, 0x00, 0x00, 0x00, 0x8001, 0x36, 4⟩ := by decide

/-- S7 (R213). -/
theorem test_plp :
    (after 0x8000 [0x28] (fill [(0x01FD, 0xC3)] { start with sp := 0xFC })).map regs =
      some ⟨0x00, 0x00, 0x00, 0xFD, 0x8001, 0xE3, 4⟩ := by decide

/-- S9 (R214). -/
theorem test_clc :
    (after 0x8000 [0x18] { start with p := Flags.ofByte 0x35 }).map regs =
      some ⟨0x00, 0x00, 0x00, 0xFD, 0x8001, 0x34, 2⟩ := by decide

/-- S10 (R215). -/
theorem test_sec :
    (after 0x8000 [0x38] start).map regs =
      some ⟨0x00, 0x00, 0x00, 0xFD, 0x8001, 0x35, 2⟩ := by decide

/-- S11 (R216). -/
theorem test_cli :
    (after 0x8000 [0x58] start).map regs =
      some ⟨0x00, 0x00, 0x00, 0xFD, 0x8001, 0x30, 2⟩ := by decide

/-- S12 (R217). -/
theorem test_sei :
    (after 0x8000 [0x78] { start with p := Flags.ofByte 0x30 }).map regs =
      some ⟨0x00, 0x00, 0x00, 0xFD, 0x8001, 0x34, 2⟩ := by decide

/-- S13 (R218). -/
theorem test_clv :
    (after 0x8000 [0xB8] { start with p := Flags.ofByte 0x74 }).map regs =
      some ⟨0x00, 0x00, 0x00, 0xFD, 0x8001, 0x34, 2⟩ := by decide

/-- S14 (R219). -/
theorem test_cld :
    (after 0x8000 [0xD8] { start with p := Flags.ofByte 0x3C }).map regs =
      some ⟨0x00, 0x00, 0x00, 0xFD, 0x8001, 0x34, 2⟩ := by decide

/-- S15 (R220). -/
theorem test_sed :
    (after 0x8000 [0xF8] start).map regs =
      some ⟨0x00, 0x00, 0x00, 0xFD, 0x8001, 0x3C, 2⟩ := by decide

/-- S16 (R221). -/
theorem test_nop :
    (after 0x8000 [0xEA] start).map regs =
      some ⟨0x00, 0x00, 0x00, 0xFD, 0x8001, 0x34, 2⟩ := by decide

/-! ## Vectors: undocumented opcodes (2.4) -/

/-- S18 (R222, R224). -/
theorem test_undoc_absolute_x_cross :
    (after 0x8000 [0x1C, 0xFF, 0x02] { start with x := 0x01 }).map regs =
      some ⟨0x00, 0x01, 0x00, 0xFD, 0x8003, 0x34, 5⟩ := by decide

/-- S20 (R222). -/
theorem test_undoc_no_access :
    (after 0x8000 [0x0C, 0x02, 0x20] (fill [(0x2002, 0x80)] start)).map regs =
      some ⟨0x00, 0x00, 0x00, 0xFD, 0x8003, 0x34, 4⟩ := by decide

/-- S22 (R223). -/
theorem test_undoc_fault :
    (after 0x8000 [0x02]
      { start with params := { undocPolicy := .fault } }).map (fun t => (regs t, t.faulted)) =
      some (⟨0x00, 0x00, 0x00, 0xFD, 0x8000, 0x34, 0⟩, true) := by decide

/-! ## Vectors: bus and PPU registers (2.5) -/

/-- B1 (R54, R55). -/
theorem test_bus_ppustatus_mirror_read :
    (after 0x8000 [0xAD, 0x0A, 0x3F]
      (fill [(0x2002, 0xE0)] start)).map (fun t => (regs t, cell t 0x2002)) =
      some (⟨0xE0, 0x00, 0x00, 0xFD, 0x8003, 0xB4, 4⟩, 0x60) := by decide

/-- B2 (R60). -/
theorem test_bus_ppuaddr_mirror_write :
    (after 0x8000 [0x8D, 0xFE, 0x3F]
      { start with a := 0x3F }).map (fun t => (regs t, cell t 0x2006, t.vaddr, t.w)) =
      some (⟨0x3F, 0x00, 0x00, 0xFD, 0x8003, 0x34, 4⟩, 0x3F, 0x3F00, true) := by decide

/-- B3 (R61). -/
theorem test_bus_ppudata_increment :
    (after 0x8000 [0x8D, 0x07, 0x20]
      (fill [(0x2000, 0x04)] { start with a := 0x11 })).map
      (fun t => (regs t, cell t 0x2007, t.vaddr, vramCell t 0x0000)) =
      some (⟨0x11, 0x00, 0x00, 0xFD, 0x8003, 0x34, 4⟩, 0x11, 0x0020, 0x11) := by decide

/-- B4 (R52). -/
theorem test_bus_no_ram_mirror :
    (after 0x8000 [0xAD, 0x00, 0x08] (fill [(0x0000, 0x5A)] start)).map regs =
      some ⟨0x00, 0x00, 0x00, 0xFD, 0x8003, 0x36, 4⟩ := by decide

/-- B6 (R54). -/
theorem test_bus_ppudata_read :
    (after 0x8000 [0xAD, 0x07, 0x20] (fill [(0x2007, 0x33)] start)).map regs =
      some ⟨0x33, 0x00, 0x00, 0xFD, 0x8003, 0x34, 4⟩ := by decide

/-! ## Vectors: the timer (4) -/

/-- P-T1: the set is passed. -/
theorem test_timer_set_passed :
    (after 0x0300 [0xEA] (fill [(0x2002, 0x20)] { start with ppuCycle := 82178 })).map
      (fun t => (t.ppuCycle, cell t 0x2002)) = some (82184, 0xA0) := by decide

/-- P-T2: the set on the last PPU cycle of the update. -/
theorem test_timer_set_last :
    (after 0x0300 [0xEA] (fill [(0x2002, 0x20)] { start with ppuCycle := 82175 })).map
      (fun t => (t.ppuCycle, cell t 0x2002)) = some (82181, 0xA0) := by decide

/-- P-T3: the wrap. -/
theorem test_timer_wrap :
    (after 0x0300 [0xEA] { start with ppuCycle := 89340 }).map
      (fun t => (t.ppuCycle, cell t 0x2002)) = some (4, 0x20) := by decide

/-- P-T4: the wrap under BRK. -/
theorem test_timer_wrap_brk :
    (after 0x0300 [0x00] { start with ppuCycle := 89330 }).map
      (fun t => (t.ppuCycle, cell t 0x2002)) = some (9, 0x20) := by decide

/-- P-T5: the read comes before the timer. -/
theorem test_timer_read_first :
    (after 0x8000 [0xAD, 0x02, 0x20] start).map
      (fun t => (t.a, cell t 0x2002, t.ppuCycle)) = some (0xA0, 0x20, 12) := by decide

/-- R223: the state after the fault makes no step. -/
theorem test_faulted_stops :
    step { start with faulted := true, faultReason := some 0x02 } = .fault (.stopped (some 0x02)) :=
  rfl

/-- D34: an operand fetched from PPUSTATUS clears bit 7 and is the byte before the clear. -/
theorem test_fetch_from_ppustatus :
    (after 0x2001 [0xA9, 0xA0] start).map (fun t => (t.a, cell t 0x2002)) = some (0xA0, 0x20) := by
  decide

/-! ## Witnesses for the hypotheses of Obligations.lean, named after the statements -/

/-- The state with the operand bytes of an instruction at 0x8001 next. -/
def fetched : State := { start with pc := 0x8001 }

/-- The state under `UNDOC_POLICY = fault`. -/
def faultPolicy : State := { start with params := { undocPolicy := .fault } }

/-- A sound state with a listed cell. -/
def stored : State := setCell 0x0200 0x42 start

theorem test_witness_DecodeOfEncode :
    (Instr.lda (.immediate 0x80)).WellFormed ∧
    (Instr.undoc 0x9E (.memory (.absoluteY 0xFFFF))).WellFormed ∧ Instr.brk.WellFormed := by decide

theorem test_witness_BranchOpcodeFields :
    ([0x10, 0x30, 0x50, 0x70, 0x90, 0xB0, 0xD0, 0xF0] : List Byte).all
      (fun op => op &&& 0x1F == 0x10) = true := by decide

theorem test_witness_StepRunsDecodedInstruction :
    start.faulted = false ∧
    (match decode [peek start.pc start, peek (start.pc + 1) start, peek (start.pc + 2) start] with
      | .ok (.brk, [0x00, 0x00]) => true
      | _ => false) = true := by decide

theorem test_witness_FaultedMakesNoStep :
    ({ start with faulted := true } : State).faulted = true := by decide

theorem test_witness_EveryInstructionCompletes : start.params.undocPolicy = .nop := by decide

/-- Each clause at the ends of its range; PPUSTATUS holds 0xA0 after reset. -/
theorem test_witness_BusRead :
    let s := fill [(0x1FFF, 0x01), (0x2000, 0x11), (0x2007, 0x77), (0x4000, 0x02), (0xFFFF, 0x03)] start
    (memRead 0x1FFF s).1 = 0x01 ∧ (memRead 0x2000 s).1 = 0x11 ∧ (memRead 0x3FFF s).1 = 0x77 ∧
    (memRead 0x4000 s).1 = 0x02 ∧ (memRead 0xFFFF s).1 = 0x03 ∧
    (memRead 0x2002 s).1 = 0xA0 ∧ cell (memRead 0x2002 s).2 0x2002 = 0x20 ∧
    (memRead 0x3FFA s).1 = 0xA0 ∧ cell (memRead 0x3FFA s).2 0x2002 = 0x20 ∧
    (memRead 0x3FFA s).2.vaddr = s.vaddr := by decide

/-- Both clauses at the ends of their ranges. -/
theorem test_witness_StorageAndRomWrites :
    ([0x0000, 0x1FFF, 0x4000, 0x7FFF] : List Word).all
      (fun a => cell (memWrite a 0x42 start) a == 0x42) = true ∧
    ([0x8000, 0xFFFF] : List Word).all (fun a => memWrite a 0x42 start == start) = true := by decide

theorem test_witness_PlainRegisterWrite :
    cell (memWrite 0x2000 0x42 start) 0x2000 = 0x42 ∧ cell (memWrite 0x3FFD 0x42 start) 0x2005 = 0x42 ∧
    cell (memWrite 0x2002 0x00 start) 0x2002 = 0x00 := by decide

/-- R60's example, through the first and the last PPUADDR mirror. -/
theorem test_witness_PpuAddrWrite :
    let t := memWrite 0x2006 0x23 start
    start.w = false ∧ t.w = true ∧ t.vaddr = 0x2300 ∧
    (memWrite 0x3FFE 0x05 t).vaddr = 0x2305 ∧ (memWrite 0x3FFE 0x05 t).w = false := by decide

/-- Increment 1 and 32, an index taken modulo 0x4000, the wrap of vaddr. -/
theorem test_witness_PpuDataWrite :
    (memWrite 0x2007 0x77 { start with vaddr := 0x6305 }).vaddr = 0x6306 ∧
    vramCell (memWrite 0x2007 0x77 { start with vaddr := 0x6305 }) 0x2305 = 0x77 ∧
    (memWrite 0x3FFF 0x77 (fill [(0x2000, 0x04)] { start with vaddr := 0xFFF0 })).vaddr = 0x0010 := by
  decide

theorem test_witness_CanonicalMemory :
    Memory.wf [(0x0001, 0x05), (0x2002, 0x00)] ∧ ¬ Memory.wf [(0x2002, 0xA0)] ∧
    ¬ Memory.wf [(0x0002, 0x05), (0x0001, 0x05)] ∧
    readCell memDefault (writeCell memDefault [(0xFFFF, 0x05)] 0xFFFF 0x00) 0xFFFF = 0x00 := by decide

/-- R127's corner cases, and a mode outside the three. -/
theorem test_witness_EffectiveAddresses :
    (resolve (.absoluteX 0x12FF) { fetched with x := 0x01 }).crossed = true ∧
    (resolve (.absoluteX 0xFFFF) { fetched with x := 0x01 }).ea = 0x0000 ∧
    (resolve (.absoluteY 0x0200) { fetched with y := 0x10 }).crossed = false ∧
    (resolve (.indirectIndexed 0x20) { fill [(0x0020, 0xF0), (0x0021, 0x02)] fetched with
      y := 0x20 }).crossed = true ∧
    (MemOperand.zeroPage 0x42).mode ∉ [Mode.absoluteX, .absoluteY, .indirectIndexed] := by decide

/-- Two operand bytes on either side of PPUSTATUS and its last mirror, an operand of each form that
reaches it (R55), and one that does not. -/
theorem test_witness_OperandAccessesOnlyRead :
    ([0x2000, 0x2001, 0x2002, 0x2003, 0x3FF8, 0x3FF9, 0x3FFA, 0x3FFB] : List Word).map
      (fun a => operandInStatus .absolute { start with pc := a }) =
      [false, true, true, false, false, true, true, false] ∧
    cell (readOperand (.memory (.absolute 0x2002)) fetched).2 0x2002 = 0x20 ∧
    cell (readOperand (.memory (.absolute 0x2003)) fetched).2 0x2002 = 0xA0 ∧
    cell (readOperand (.immediate 0xA0) { start with pc := 0x2002 }).2 0x2002 = 0x20 := by decide

/-- Operand bytes in ROM, and the register next to PPUSTATUS. -/
theorem test_witness_QuietOperandAccesses :
    cellOf 0x8001 ≠ ppuStatus ∧ cellOf 0x8002 ≠ ppuStatus ∧ cellOf 0x2003 ≠ ppuStatus ∧
    cellOf 0x2001 ≠ ppuStatus ∧ cellOf fetched.pc ≠ ppuStatus ∧
    cellOf (resolve (.absolute 0x0200) fetched).ea ≠ ppuStatus ∧
    (resolve (.absolute 0x0200) fetched).state.pc = 0x8003 := by decide

/-- One address for each clause, and both ends of the group. -/
theorem test_witness_StoringFrame :
    let group (m : MemOperand) : List Instr := [.sta m, .stx m, .sty m, .inc m, .dec m,
      .asl (.memory m), .lsr (.memory m), .rol (.memory m), .ror (.memory m)]
    Instr.sta (.absolute 0x0200) ∈ group (.absolute 0x0200) ∧
    Instr.inc (.absolute 0x8000) ∈ group (.absolute 0x8000) ∧
    Instr.ror (.memory (.absolute 0x2002)) ∈ group (.absolute 0x2002) ∧
    cellOf 0x0200 ≠ ppuStatus ∧ region 0x8000 = .rom ∧ cellOf 0x200E = ppuAddr ∧
    cellOf 0x3FFF = ppuData ∧ cellOf 0x3FFA = ppuStatus := by decide

theorem test_witness_ShiftsResult :
    (Instr.ror, false, true) ∈ [(Instr.asl, true, false), (.lsr, false, false), (.rol, true, true),
      (.ror, false, true)] := by simp

theorem test_witness_JumpsResult : region 0x1FFF ≠ .ppuReg ∧ region 0x4000 ≠ .ppuReg := by decide

/-- Both offsets, and an address outside the three stored to. -/
theorem test_witness_BrkResult :
    ({ start with params := { brkPcOffset := .one } } : State).params.brkPcOffset = .one ∧
    start.params.brkPcOffset = .two ∧
    (after 0x8010 [0x00] { start with params := { brkPcOffset := .one } }).map
      (fun t => (cell t 0x01FD, cell t 0x01FC, cell t 0x0200)) = some (0x80, 0x11, 0x00) := by decide

theorem test_witness_PushesResult :
    (Instr.pha, start.a) ∈ [(Instr.pha, start.a), (.php, start.p.toByte ||| 0x10)] ∧
    (Instr.php, (0x34 : Byte)) ∈ [(Instr.pha, start.a), (.php, start.p.toByte ||| 0x10)] := by decide

theorem test_witness_UndocNopResult :
    start.params.undocPolicy = .nop ∧ UndocOperand.memory (.zeroPage 0x10) = .memory (.zeroPage 0x10) ∧
    (∀ m, UndocOperand.immediate 0x55 ≠ .memory m) :=
  ⟨rfl, rfl, fun _ h => by cases h⟩

theorem test_witness_UndocFaultResult : faultPolicy.params.undocPolicy = .fault := by decide

theorem test_witness_FaultUnreachableUnderNop :
    start.faulted = false ∧ start.params.undocPolicy = .nop := by decide

theorem test_witness_CycleCountBounds :
    Instr.nop.WellFormed ∧ cycles .nop fetched = 2 ∧
    (Instr.undoc 0x03 (.memory (.indexedIndirect 0x10))).WellFormed ∧
    cycles (.undoc 0x03 (.memory (.indexedIndirect 0x10))) fetched = 8 := by decide

/-- Not taken, taken, taken across a page. -/
theorem test_witness_BranchCycles :
    Instr.bne 0x02 ∈ [Instr.bpl 0x02, .bmi 0x02, .bvc 0x02, .bvs 0x02, .bcc 0x02, .bcs 0x02,
      .bne 0x02, .beq 0x02] ∧
    cycles (.beq 0x02) fetched = 2 ∧ cycles (.bne 0x02) fetched = 3 ∧ cycles (.bne 0x80) fetched = 4 := by
  decide

theorem test_witness_PageCrossingPenalty :
    let s : State := { fetched with x := 0x01 }
    (Instr.lda (.memory (.absoluteX 0x12FF))).WellFormed ∧
    pagePenalty (.lda (.memory (.absoluteX 0x12FF))) s = 1 ∧
    pagePenalty (.sta (.absoluteX 0x12FF)) s = 0 ∧
    (Instr.undoc 0x1C (.memory (.absoluteX 0x12FF))).WellFormed ∧
    pagePenalty (.undoc 0x1C (.memory (.absoluteX 0x12FF))) s = 1 ∧
    (Instr.lda (.memory (.absoluteX 0x12FF))).mode ≠ .relative ∧
    cycles (.lda (.memory (.absoluteX 0x12FF))) s = 5 := by decide

/-- The bounds of both hypotheses, and each clause's first state. -/
theorem test_witness_TimerUpdate :
    (ppuUpdate 8 { start with ppuCycle := 89341 }).ppuCycle = 23 ∧
    cell (ppuUpdate 8 { start with ppuCycle := 89341 }) 0x2002 = 0x20 ∧
    cell (ppuUpdate 1 (fill [(0x2002, 0x20)] { start with ppuCycle := 82180 })) 0x2002 = 0xA0 ∧
    cell (ppuUpdate 1 (fill [(0x2002, 0x20)] { start with ppuCycle := 82181 })) 0x2002 = 0x20 ∧
    (ppuUpdate 0 start).ppuCycle = 0 := by decide

/-- R249's four grounds and the PRG length, each alone, and a cartridge with none of them. -/
theorem test_witness_HostRefusals_configure :
    [{ blankCart with mapper := 1 }, { blankCart with prgRomSizeKB := 32 },
      { blankCart with hasBatteryRAM := true }, { blankCart with imageOk := false },
      { blankCart with prg := [] }].map accepts = [false, false, false, false, false] ∧
    accepts blankCart = true :=
  ⟨rfl, by simp [accepts, blankCart]⟩

/-- A faulted state, and states that are not, whose bytes decode: BRK, and the undocumented 0x02
under `fault`. -/
theorem test_witness_HostRefusals_step :
    (raiseUndoc 0x02 start).faulted = true ∧ start.faulted = false ∧
    decode [peek start.pc start, peek (start.pc + 1) start, peek (start.pc + 2) start] =
      .ok (.brk, [0x00, 0x00]) ∧
    (let s := place 0x0000 [0x02] faultPolicy
    s.faulted = false ∧
    decode [peek s.pc s, peek (s.pc + 1) s, peek (s.pc + 2) s] =
      .ok (.undoc 0x02 .implied, [0x00, 0x00])) :=
  ⟨rfl, rfl, rfl, rfl, rfl⟩

/-- R223: the step that faults returns no cycle count. -/
theorem test_block_step_fault (cart : Cart) :
    (Block.running cart (place 0x0000 [0x02] faultPolicy)).step =
      .next (.running cart { place 0x0000 [0x02] faultPolicy with
        faulted := true, faultReason := some 0x02 }, none) := rfl

/-- An accepted cartridge whose PRG is that of V8. -/
def countingCart : Cart :=
  { blankCart with prg := (List.range prgBytes).map (BitVec.ofNat 8), chr := [0x11, 0x22] }

theorem test_witness_ResetValues : accepts countingCart = true := by
  simp [accepts, countingCart, blankCart]

theorem test_witness_ResetEstablishesSound :
    accepts countingCart = true ∧ countingCart.prg[0x00FF]? = some 0xFF :=
  ⟨test_witness_ResetValues, by simp [countingCart, prgBytes]⟩

theorem test_witness_StepKeepsSound :
    Sound stored ∧ ∃ t, step stored = .next t := by
  have hmem : stored.mem = [(0x0200, 0x42)] := by decide
  refine ⟨⟨by decide, by decide, fun i _ => ?_, fun a h _ => ?_, by decide, rfl⟩, _, rfl⟩
  · rw [hmem]
    simp only [readCell, memDefault]
    rw [if_neg (by omega), if_neg (by omega), if_neg (by omega), if_neg (by omega)]
  · rw [hmem]
    simp only [readCell, memDefault]
    rw [if_neg (by omega), if_neg (by omega)]

theorem test_witness_StepKeepsRom :
    HoldsPrg [0x00] stored ∧ ∃ t, step stored = .next t := by
  refine ⟨fun i h _ => ?_, _, rfl⟩
  obtain rfl : i = 0 := by simpa using h
  exact (by decide : readCell memDefault stored.mem 0x8000 = 0x00 ∧
    readCell memDefault stored.mem 0xC000 = 0x00)

theorem test_witness_FlagWriters :
    exec .nop start = .next start ∧ writesNZ .nop = false ∧ writesV .nop = false ∧
    writesB .nop = false ∧ writesD .nop = false ∧ writesI .nop = false ∧ writesC .nop = false :=
  ⟨rfl, rfl, rfl, rfl, rfl, rfl, rfl⟩

theorem test_witness_RegisterWriters :
    exec .nop start = .next start ∧ writesA .nop = false ∧ writesX .nop = false ∧
    writesY .nop = false ∧ writesSP .nop = false := ⟨rfl, rfl, rfl, rfl, rfl⟩

theorem test_witness_NonStoringFrame :
    exec .nop start = .next start ∧ makesBusWrite .nop = false ∧
    makesBusWrite (.asl .accumulator) = false := ⟨rfl, rfl, rfl⟩

theorem test_witness_BreakDecimalInterruptInert : Instr.adc (.immediate 1) ≠ .php ∧
    Instr.adc (.immediate 1) ≠ .brk := by decide

end Sys2Proof.Tests
end

section
/-! SUPPORT. The stack instructions and JSR, RTS: the equations of Laws/Bus.lean and
Laws/Meanings.lean, read off at the cells the statements name. -/

namespace Sys2Proof.Machine

/-! ## The stack page -/

@[simp] theorem cell_setPC (v : Word) (s : State) (b : Word) : cell (setPC v s) b = cell s b := rfl

theorem stackAddr_ne {p q : Byte} (h : p ≠ q) : stackAddr p ≠ stackAddr q := mt stackAddr_inj h

/-- The two cells of a pushed word are different cells, also where SP wraps. -/
theorem stackAddr_ne_sub_one (sp : Byte) : stackAddr sp ≠ stackAddr (sp - 1) :=
  stackAddr_ne (by bv_omega)

/-- All that a push does: one stack cell, and SP. -/
theorem push_result (v : Byte) (s : State) :
    push v s = { s with sp := s.sp - 1, mem := (push v s).mem } ∧
    cell (push v s) (stackAddr s.sp) = v ∧
    ∀ b, b ≠ stackAddr s.sp → cell (push v s) b = cell s b := by
  rw [push_eq]
  exact ⟨rfl, cell_setCell_self _ v s, fun _ hb => cell_setCell_ne v s hb⟩

/-- A pushed word changes SP and MEM alone. -/
theorem pushWord_rest (v : Word) (s : State) :
    pushWord v s = { s with sp := s.sp - 2, mem := (pushWord v s).mem } := by
  rw [pushWord_eq]
  rfl

/-- The cells after a word is pushed: its high byte at SP, its low byte below. -/
theorem cell_pushWord (v : Word) (s : State) (b : Word) :
    cell (pushWord v s) b =
      if b = stackAddr (s.sp - 1) then loByte v
      else if b = stackAddr s.sp then hiByte v else cell s b := by
  rw [pushWord_eq]
  exact (cell_setCell ..).trans (if_congr Iff.rfl rfl (cell_setCell ..))

/-! ## Operand fetches -/

/-- Reads change PC and MEM alone. -/
theorem AfterReads.eq_pc_mem {s t : State} (h : AfterReads s t) :
    t = { s with pc := t.pc, mem := t.mem } := by
  rcases h with h | h <;> rw [h] <;> rfl

theorem fetched1_status (s : State) :
    cell (fetched1 s) ppuStatus = statusAfter (cellOf s.pc == ppuStatus) s := by
  rw [fetched1_eq]
  exact memRead_status s.pc s

/-- The fetch of a 16-bit operand clears PPUSTATUS bit 7 exactly when one of its bytes lies
there. -/
theorem fetched2_status (s : State) :
    cell (fetched2 s) ppuStatus = statusAfter (operandInStatus .absolute s) s := by
  rw [operandInStatus_two s rfl, fetched2, fetched1_status, fetched1_pc]
  exact statusAfter_statusAfter _ (fetched1_status s)

/-- A JSR's state: PC, SP and MEM alone. -/
theorem callSubroutine_rest (a : Word) (s : State) :
    callSubroutine a s =
      { s with pc := a, sp := s.sp - 2, mem := (callSubroutine a s).mem } := by
  have hreads := (fetched2_afterReads s).eq_pc_mem
  rw [callSubroutine_eq, pushWord_rest]
  generalize fetched2 s = u at hreads ⊢
  rw [hreads]
  rfl

theorem cell_callSubroutine (a : Word) (s : State) (b : Word) :
    cell (callSubroutine a s) b =
      if b = stackAddr (s.sp - 1) then loByte (s.pc + 1)
      else if b = stackAddr s.sp then hiByte (s.pc + 1) else cell (fetched2 s) b := by
  rw [callSubroutine_eq, cell_setPC, cell_pushWord, (fetched2_afterReads s).sp]

/-! ## The statements -/

/-- Settles O32: the two pushed bytes lie in different cells of the stack page, which is storage,
and the operand's two fetches are all else that reaches MEM. -/
theorem jsrResult : Obligations.JsrResult := by
  intro a s
  refine ⟨callSubroutine a s, rfl, callSubroutine_rest a s, ?_, ?_, fun b hhi hlo hst => ?_, ?_⟩
  · exact (cell_callSubroutine ..).trans <|
      (if_neg (stackAddr_ne_sub_one s.sp)).trans (if_pos rfl)
  · exact (cell_callSubroutine ..).trans (if_pos rfl)
  · have hcell := (fetched2_afterReads s).cell hst
    exact (cell_callSubroutine ..).trans <|
      (if_neg hlo).trans <| (if_neg hhi).trans hcell
  · have hlo := (stackAddr_ne_ppuStatus (s.sp - 1)).symm
    have hhi := (stackAddr_ne_ppuStatus s.sp).symm
    rw [cell_callSubroutine, if_neg hlo, if_neg hhi, fetched2_status]

/-- Settles O39: both instructions are one push. -/
theorem pushesResult : Obligations.PushesResult := by
  intro s i v h
  have hexec : exec i s = .next (push v s) := by
    simp only [List.mem_cons, Prod.mk.injEq, List.not_mem_nil, or_false] at h
    rcases h with ⟨rfl, rfl⟩ | ⟨rfl, rfl⟩ <;> rfl
  exact ⟨push v s, hexec, push_result v s⟩

/-- Settles O33, by the equation of RTS. -/
theorem rtsResult : Obligations.RtsResult := fun s =>
  congrArg Host.Outcome.next (returnSubroutine_eq s)

/-- Settles O38: the byte view is checked flag by flag, and the write is its definition. -/
theorem statusByteView : Obligations.StatusByteView := by
  refine ⟨?_, fun b => rfl⟩
  rintro ⟨n, v, b, d, i, z, c⟩
  revert n v b d i z c
  decide

/-- Settles O40, by the equations of the two pulls. -/
theorem pullsResult : Obligations.PullsResult := fun s =>
  ⟨congrArg Host.Outcome.next (pullA_eq s), congrArg Host.Outcome.next (pullFlags_eq s)⟩

end Sys2Proof.Machine
end

section
/-! SUPPORT. RESET: what the copies of the cartridge's bytes read as, and the values it leaves. -/

namespace Sys2Proof.Machine

/-! ## ROM copies -/

/-- Of two cell lists in a row the first that lists an address gives its byte. -/
theorem readCell_append (d : Nat → Byte) (m m' : Memory) (a : Nat) :
    readCell d (m ++ m') a = readCell (readCell d m') m a := by
  induction m with
  | nil => rfl
  | cons c m ih => simp only [List.cons_append, readCell, ih]

/-- A copy lists nothing outside its range, so what it falls back to (`e`) is read there. -/
theorem readCell_romCells_outside (d e : Nat → Byte) (l : List Byte) (base a : Nat)
    (h : a < base ∨ base + l.length ≤ a) : readCell e (romCells d base l) a = e a := by
  induction l generalizing base with
  | nil => rfl
  | cons b l ih =>
    rw [List.length_cons] at h
    have hrest := ih (base + 1) (by omega)
    have hne : base ≠ a := by omega
    unfold romCells
    split
    · exact hrest
    · exact (if_neg hne).trans hrest

/-- Within its range a copy gives its byte, also where it leaves out a byte that an unlisted address
reads as, if the fallback agrees there. -/
theorem readCell_romCells (d e : Nat → Byte) (l : List Byte) (base i : Nat) (hi : i < l.length)
    (he : e (base + i) = d (base + i)) : readCell e (romCells d base l) (base + i) = l[i] := by
  induction l generalizing base i with
  | nil => cases hi
  | cons b l ih =>
    unfold romCells
    cases i with
    | zero =>
      split
      · next hb =>
        exact (readCell_romCells_outside d e l (base + 1) base (by omega)).trans (he.trans hb.symm)
      · exact if_pos rfl
    | succ i =>
      have hadd : base + (i + 1) = base + 1 + i := by omega
      have hrest := ih (base + 1) i (Nat.lt_of_succ_lt_succ hi) (hadd ▸ he)
      rw [hadd]
      split
      · exact hrest
      · exact (if_neg (by omega)).trans hrest

/-! ## MEM and VRAM after RESET -/

/-- The length of the PRG image of an accepted cartridge. -/
theorem prg_length_of_accepts {cart : Cart} (h : accepts cart = true) :
    cart.prg.length = 0x4000 := by
  simp only [accepts, Bool.and_eq_true, beq_iff_eq] at h
  exact h.2

/-- MEM after RESET: the two PRG copies, and PPUSTATUS. -/
theorem cell_reset (cart : Cart) (s : State) (a : Word) :
    cell (reset cart s) a =
      if a = ppuStatus then 0xA0
      else readCell memDefault (romCells memDefault 0x8000 (cart.prg.take prgBytes) ++
        romCells memDefault 0xC000 (cart.prg.take prgBytes)) a.toNat := by
  have hppu : cell (reset cart s) a = cell (setCell ppuStatus
      (cell (busReset cart s) ppuStatus ||| 0xA0) (busReset cart s)) a := rfl
  rw [hppu, busReset, cell_setCell_self, setCell_setCell, cell_setCell]
  rfl

/-- Below ROM, MEM after RESET reads as an unlisted address does. -/
theorem cell_reset_below_rom (cart : Cart) (s : State) (a : Word) (h : a.toNat < 0x8000) :
    cell (reset cart s) a = memDefault a.toNat := by
  rw [cell_reset]
  split
  · next ha => rw [ha]; rfl
  · rw [readCell_append, readCell_romCells_outside _ _ _ _ _ (.inl h),
      readCell_romCells_outside _ _ _ _ _ (.inl (by omega))]

/-- Both PRG copies after RESET hold the cartridge's bytes. -/
theorem cell_reset_prg (cart : Cart) (s : State) (h : accepts cart = true) (i : Nat)
    (hi : i < 0x4000) :
    cell (reset cart s) (BitVec.ofNat 16 (0x8000 + i)) = cart.prg.getD i 0 ∧
    cell (reset cart s) (BitVec.ofNat 16 (0xC000 + i)) = cart.prg.getD i 0 := by
  have hlen := prg_length_of_accepts h
  have hi' : i < cart.prg.length := hlen ▸ hi
  have hrom : ∀ base, 0x8000 ≤ base → base + i < 0x10000 →
      (BitVec.ofNat 16 (base + i)).toNat = base + i ∧
        BitVec.ofNat 16 (base + i) ≠ ppuStatus := by
    intro base hlo hhi
    have hnat : (BitVec.ofNat 16 (base + i)).toNat = base + i := Nat.mod_eq_of_lt hhi
    refine ⟨hnat, fun heq => ?_⟩
    rw [heq] at hnat
    simp [ppuStatus] at hnat
    omega
  obtain ⟨hnat1, hst1⟩ := hrom 0x8000 (by omega) (by omega)
  obtain ⟨hnat2, hst2⟩ := hrom 0xC000 (by omega) (by omega)
  rw [cell_reset, cell_reset, if_neg hst1, if_neg hst2, hnat1, hnat2, readCell_append,
    readCell_append, List.take_of_length_le (i := prgBytes) hlen.le, List.getD_eq_getElem _ _ hi']
  constructor
  · refine readCell_romCells _ _ _ _ _ hi' ?_
    exact readCell_romCells_outside _ _ _ _ _ (.inl (by omega))
  · rw [readCell_romCells_outside _ _ _ _ _ (.inr (by omega))]
    exact readCell_romCells _ _ _ _ _ hi' rfl

/-- VRAM after RESET: the CHR bytes, and 0 after them. -/
theorem vramCell_reset (cart : Cart) (s : State) (i : Nat) (hi : i < vramBytes) :
    vramCell (reset cart s) i = cart.chr.getD i 0 := by
  have hread : vramCell (reset cart s) i =
      readCell vramDefault (romCells vramDefault 0 (cart.chr.take vramBytes)) i := rfl
  rw [hread]
  by_cases hlen : i < cart.chr.length
  · have hi' : i < (cart.chr.take vramBytes).length := by rw [List.length_take]; omega
    have := readCell_romCells vramDefault vramDefault _ 0 i hi' rfl
    rw [Nat.zero_add] at this
    rw [this, List.getElem_take, List.getD_eq_getElem _ _ hlen]
  · rw [readCell_romCells_outside _ _ _ _ _ (.inr (by rw [List.length_take]; omega)),
      List.getD_eq_default _ _ (by omega)]
    rfl

/-- PC after RESET is the vector, the last word but one of the second PRG copy. -/
theorem reset_pc (cart : Cart) (s : State) (h : accepts cart = true) :
    (reset cart s).pc = word (cart.prg.getD 0x3FFD 0) (cart.prg.getD 0x3FFC 0) := by
  rw [← (cell_reset_prg cart s h 0x3FFD (by decide)).2,
    ← (cell_reset_prg cart s h 0x3FFC (by decide)).2]
  rfl

/-- Settles O51: the four memory clauses are the lemmas above, and the rest are the values that
`reset` writes. -/
theorem resetValues : Obligations.ResetValues := by
  intro cart s h
  refine ⟨rfl, rfl, rfl, rfl, Flags.toByte_ofByte 0x34, reset_pc cart s h, fun a ha => ?_,
    fun i hi => cell_reset_prg cart s h i hi, fun i hi => vramCell_reset cart s i hi,
    rfl, rfl, rfl, rfl, rfl, rfl⟩
  have hst : a.toNat = 0x2002 ↔ a = 0x2002 := BitVec.toNat_inj (y := 0x2002)
  rw [cell_reset_below_rom cart s a ha]
  exact if_congr hst rfl rfl

end Sys2Proof.Machine
end

section
/-! SUPPORT. What an instruction leaves alone, said once for all of them: the registers and flags
that 10_state.md R21 to R23 and R28 do not list it for, the timer, the cycle total and the parameters. -/

namespace Sys2Proof.Machine

/-! ## Registers and P under the named updates -/

@[simp] theorem getReg_setPC (r : Reg) (v : Word) (s : State) :
    getReg r (setPC v s) = getReg r s := by cases r <;> rfl

@[simp] theorem getReg_setFlags (r : Reg) (q : Flags) (s : State) :
    getReg r (setFlags q s) = getReg r s := by cases r <;> rfl

@[simp] theorem getReg_memWrite (r : Reg) (a : Word) (v : Byte) (s : State) :
    getReg r (memWrite a v s) = getReg r s := by
  rw [memWrite_rest]
  cases r <;> rfl

@[simp] theorem setReg_p (r : Reg) (v : Byte) (s : State) : (setReg r v s).p = s.p := by
  cases r <;> rfl

@[simp] theorem memWrite_p (a : Word) (v : Byte) (s : State) : (memWrite a v s).p = s.p := by
  rw [memWrite_rest]

/-! ## The frame -/

/-- The timer, the cycle total and the parameters are as they were. -/
structure SameClock (s t : State) : Prop where
  ppuCycle : t.ppuCycle = s.ppuCycle
  cycleTotal : t.cycleTotal = s.cycleTotal
  params : t.params = s.params

theorem SameClock.trans {s t u : State} (h : SameClock s t) (k : SameClock t u) : SameClock s u :=
  ⟨k.ppuCycle.trans h.ppuCycle, k.cycleTotal.trans h.cycleTotal, k.params.trans h.params⟩

theorem setReg_sameClock (r : Reg) (v : Byte) (s : State) : SameClock s (setReg r v s) := by
  cases r <;> exact ⟨rfl, rfl, rfl⟩

theorem memWrite_sameClock (a : Word) (v : Byte) (s : State) : SameClock s (memWrite a v s) := by
  rw [memWrite_rest]
  exact ⟨rfl, rfl, rfl⟩

/-- The writers of a register (10_state.md R21 to R23). -/
def writesReg : Reg → Instr → Bool
  | .a => writesA
  | .x => writesX
  | .y => writesY
  | .sp => writesSP

/-- From `p` to `q` only flags that the instruction is a writer of (10_state.md R28) change. -/
def FlagsKept (i : Instr) (p q : Flags) : Prop :=
  (writesNZ i = false → q.n = p.n ∧ q.z = p.z) ∧
  (writesV i = false → q.v = p.v) ∧ (writesB i = false → q.b = p.b) ∧
  (writesD i = false → q.d = p.d) ∧ (writesI i = false → q.i = p.i) ∧
  (writesC i = false → q.c = p.c)

/-- What an instruction may leave: only the registers and flags it is a writer of are changed, and
the clock is as it was. -/
structure Frame (i : Instr) (s t : State) : Prop where
  regs : ∀ r, writesReg r i = false → getReg r t = getReg r s
  flags : FlagsKept i s.p t.p
  clock : SameClock s t

namespace FlagsKept

variable {i : Instr}

theorem refl (i : Instr) (p : Flags) : FlagsKept i p p := by simp [FlagsKept]

theorem setZN (h : writesNZ i = true) (p : Flags) (v : Byte) : FlagsKept i p (p.setZN v) := by
  simp [FlagsKept, h, Flags.setZN]

/-- The shifts and rotates write Z, N and C. -/
theorem setZNC (h : writesNZ i = true) (hc : writesC i = true) (p : Flags) (v : Byte) (c : Bool) :
    FlagsKept i p { p.setZN v with c := c } := by
  simp [FlagsKept, h, hc, Flags.setZN]

theorem setCompare (h : writesNZ i = true) (hc : writesC i = true) (p : Flags) (r m : Byte) :
    FlagsKept i p (p.setCompare r m) := by
  simp [FlagsKept, h, hc, Flags.setCompare]

theorem setArith (h : writesNZ i = true) (hv : writesV i = true) (hc : writesC i = true) (p : Flags)
    (r : AluResult) : FlagsKept i p (p.setArith r) := by
  simp [FlagsKept, h, hv, hc, Flags.setArith, Flags.setZN]

theorem setBit (h : writesNZ i = true) (hv : writesV i = true) (p : Flags) (a m : Byte) :
    FlagsKept i p (p.setBit a m) := by
  simp [FlagsKept, h, hv, Flags.setBit]

/-- Trap entry sets B and I. -/
theorem setBI (hb : writesB i = true) (hi : writesI i = true) (p : Flags) :
    FlagsKept i p { p with b := true, i := true } := by
  simp [FlagsKept, hb, hi]

/-- A writer of every flag may leave any P. -/
theorem all (h : writesNZ i = true) (hv : writesV i = true) (hb : writesB i = true)
    (hd : writesD i = true) (hi : writesI i = true) (hc : writesC i = true) (p q : Flags) :
    FlagsKept i p q := by
  simp [FlagsKept, h, hv, hb, hd, hi, hc]

end FlagsKept

namespace Frame

variable {i : Instr} {s t : State}

theorem afterReads (h : AfterReads s t) : Frame i s t where
  regs r _ := h.getReg r
  flags := h.p ▸ .refl i s.p
  clock := ⟨h.ppuCycle, h.cycleTotal, h.params⟩

theorem refl (i : Instr) (s : State) : Frame i s s := afterReads (.refl s)

theorem setPC (h : Frame i s t) (v : Word) : Frame i s (setPC v t) where
  regs r hr := (getReg_setPC r v t).trans (h.regs r hr)
  flags := h.flags
  clock := h.clock.trans ⟨rfl, rfl, rfl⟩

theorem memWrite (h : Frame i s t) (a : Word) (v : Byte) : Frame i s (memWrite a v t) where
  regs r hr := (getReg_memWrite r a v t).trans (h.regs r hr)
  flags := memWrite_p a v t ▸ h.flags
  clock := h.clock.trans (memWrite_sameClock a v t)

theorem setFlags (h : Frame i s t) {q : Flags} (hq : FlagsKept i s.p q) :
    Frame i s (setFlags q t) where
  regs r hr := (getReg_setFlags r q t).trans (h.regs r hr)
  flags := hq
  clock := h.clock.trans ⟨rfl, rfl, rfl⟩

/-- A register write is within the frame of a writer of that register. -/
theorem setReg (h : Frame i s t) {r : Reg} (hr : writesReg r i = true) (v : Byte) :
    Frame i s (setReg r v t) where
  regs q hq := by
    have hne : q ≠ r := fun heq => by simp [← heq, hq] at hr
    exact (getReg_setReg_ne v t hne).trans (h.regs q hq)
  flags := setReg_p r v t ▸ h.flags
  clock := h.clock.trans (setReg_sameClock r v t)

theorem setZN (h : Frame i s t) (hi : writesNZ i = true) (ht : t.p = s.p) (v : Byte) :
    Frame i s (setZN v t) :=
  h.setFlags (ht ▸ .setZN hi t.p v)

theorem push (h : Frame i s t) (hi : writesSP i = true) (v : Byte) : Frame i s (push v t) :=
  (h.memWrite _ v).setReg (r := .sp) hi _

theorem pushWord (h : Frame i s t) (hi : writesSP i = true) (v : Word) :
    Frame i s (pushWord v t) :=
  (h.push hi _).push hi _

theorem raiseUndoc (i : Instr) (op : Byte) (s : State) : Frame i s (raiseUndoc op s) where
  regs r _ := by cases r <;> rfl
  flags := .refl i s.p
  clock := ⟨rfl, rfl, rfl⟩

/-- A shift or rotate of A, or of a memory cell. -/
theorem shift {f : Byte → Flags → Byte × Flags} {o : ShiftOperand}
    (hf : ∀ v, FlagsKept i s.p (f v s.p).2)
    (hi : o = .accumulator → writesA i = true) : Frame i s (shift f o s) := by
  cases o with
  | accumulator => exact ((refl i s).setReg (r := .a) (hi rfl) _).setFlags (hf s.a)
  | memory m =>
    rw [Machine.shift, modifyOperand_eq]
    exact ((afterReads (readOperand_afterReads _ s)).memWrite _ _).setFlags (hf _)

end Frame

/-! ## Traps as updates -/

@[simp] theorem push_p (v : Byte) (s : State) : (push v s).p = s.p := memWrite_p ..

@[simp] theorem pushWord_p (v : Word) (s : State) : (pushWord v s).p = s.p :=
  (push_p ..).trans (push_p ..)

/-- Trap entry is three pushes, then B and I, then PC. -/
theorem enterTrap_updates (ret : Word) (s : State) :
    ∃ target, enterTrap ret s = setPC target (setFlags { s.p with b := true, i := true }
      (push (s.p.toByte ||| 0x10) (pushWord ret s))) := by
  simp only [enterTrap, readPair_brkVector, push_p, pushWord_p]
  exact ⟨_, rfl⟩

/-- Trap return writes SP, P and PC. -/
theorem leaveTrap_updates (s : State) :
    leaveTrap s = setPC (word (cell s (stackAddr (s.sp + 3))) (cell s (stackAddr (s.sp + 2))))
      (setFlags (Flags.ofByte (cell s (stackAddr (s.sp + 1)))) (setReg .sp (s.sp + 3) s)) :=
  leaveTrap_eq s

/-! ## Every instruction stays within its frame -/

/-- Every instruction completes, and changes only the registers and flags it is a writer of, memory,
the VRAM port, PC and the fault. -/
theorem exec_frame (i : Instr) (s : State) : ∃ t, exec i s = .next t ∧ Frame i s t := by
  have hread (o : ReadOperand) : Frame i s (readOperand o s).2 :=
    .afterReads (readOperand_afterReads o s)
  have hp (o : ReadOperand) : (readOperand o s).2.p = s.p := (readOperand_afterReads o s).p
  cases i with
  | lda o | ldx o | ldy o =>
    exact ⟨_, rfl, load_eq .. ▸ ((hread o).setReg rfl _).setZN rfl ((setReg_p ..).trans (hp o)) _⟩
  | sta m | stx m | sty m =>
    exact ⟨_, rfl, writeOperand_eq .. ▸ (Frame.afterReads (resolve_afterReads m s)).memWrite _ _⟩
  | tax | tay | txa | tya | tsx =>
    exact ⟨_, rfl, ((Frame.refl _ s).setReg rfl _).setZN rfl rfl _⟩
  | txs => exact ⟨_, rfl, (Frame.refl _ s).setReg (r := .sp) rfl _⟩
  | ora o | and o | eor o =>
    exact ⟨_, rfl, logic_eq .. ▸ ((hread o).setReg rfl _).setZN rfl ((setReg_p ..).trans (hp o)) _⟩
  | adc o | sbc o =>
    exact ⟨_, rfl, arith_eq .. ▸ ((hread o).setReg rfl _).setFlags (.setArith rfl rfl rfl ..)⟩
  | cmp o | cpx o | cpy o =>
    exact ⟨_, rfl, compareReg_eq .. ▸ (hread o).setFlags (.setCompare rfl rfl ..)⟩
  | bit m => exact ⟨_, rfl, bitTest_eq .. ▸ (hread _).setFlags (.setBit rfl rfl ..)⟩
  | inc m | dec m =>
    exact ⟨_, rfl, modifyOperand_eq .. ▸ ((hread _).memWrite _ _).setFlags (.setZN rfl ..)⟩
  | inx | iny | dex | dey =>
    exact ⟨_, rfl, ((Frame.refl _ s).setReg rfl _).setFlags (.setZN rfl ..)⟩
  | asl o | lsr o | rol o | ror o =>
    exact ⟨_, rfl, .shift (fun _ => .setZNC rfl rfl ..) fun ho => ho ▸ rfl⟩
  | bpl d | bmi d | bvc d | bvs d | bcc d | bcs d | bne d | beq d =>
    exact ⟨_, rfl, branch_eq .. ▸ (Frame.afterReads (fetched1_afterReads s)).setPC _⟩
  | jmp o => exact ⟨_, rfl, (Frame.afterReads (resolveJump_afterReads o s)).setPC _⟩
  | jsr a => exact ⟨_, rfl, ((Frame.afterReads (fetched2_afterReads s)).pushWord rfl _).setPC _⟩
  | rts =>
    exact ⟨_, rfl, returnSubroutine_eq s ▸ ((Frame.refl _ s).setReg (r := .sp) rfl _).setPC _⟩
  | brk =>
    obtain ⟨target, heq⟩ := enterTrap_updates (s.pc - 1 + s.params.brkPcOffset.toWord) s
    exact ⟨_, rfl, heq ▸
      ((((Frame.refl _ s).pushWord rfl _).push rfl _).setFlags (.setBI rfl rfl s.p)).setPC target⟩
  | rti =>
    exact ⟨_, rfl, leaveTrap_updates s ▸
      (((Frame.refl _ s).setReg (r := .sp) rfl _).setFlags
        (.all rfl rfl rfl rfl rfl rfl ..)).setPC _⟩
  | pha | php => exact ⟨_, rfl, (Frame.refl _ s).push rfl _⟩
  | pla =>
    exact ⟨_, rfl, pullA_eq s ▸
      (((Frame.refl _ s).setReg (r := .sp) rfl _).setReg (r := .a) rfl _).setZN rfl
        ((setReg_p ..).trans (setReg_p ..)) _⟩
  | plp =>
    exact ⟨_, rfl, pullFlags_eq s ▸
      ((Frame.refl _ s).setReg (r := .sp) rfl _).setFlags (.all rfl rfl rfl rfl rfl rfl ..)⟩
  | clc | sec | cli | sei | clv | cld | sed =>
    exact ⟨_, rfl, (Frame.refl _ s).setFlags
      (by simp [FlagsKept, writesC, writesI, writesV, writesD])⟩
  | nop => exact ⟨_, rfl, .refl _ s⟩
  | undoc op o =>
    cases h : s.params.undocPolicy with
    | nop => exact ⟨_, exec_undoc_nop op o s h, .afterReads (passOperand_afterReads o s)⟩
    | fault => exact ⟨_, exec_undoc_fault op o s h, .raiseUndoc _ op s⟩

theorem frame_of_exec {i : Instr} {s t : State} (h : exec i s = .next t) : Frame i s t := by
  obtain ⟨u, hu, hframe⟩ := exec_frame i s
  rw [hu] at h
  cases h
  exact hframe

/-! ## The statements -/

/-- Settles O56, from the frame of every instruction. -/
theorem flagWriters : Obligations.FlagWriters := fun _ _ _ h => (frame_of_exec h).flags

/-- Settles O57, from the frame of every instruction. -/
theorem registerWriters : Obligations.RegisterWriters := fun _ _ _ h =>
  have hregs := (frame_of_exec h).regs
  ⟨hregs .a, hregs .x, hregs .y, hregs .sp⟩

end Sys2Proof.Machine
end

section
/-! SUPPORT. B, D and I affect no computation: each operation that the meanings are built from
commutes with a change of these three flags. -/

namespace Sys2Proof.Machine

/-- P with other values of B, D and I, the flags no computation reads (10_state.md R28 to R30). -/
def Flags.withInert (b d f : Bool) (p : Flags) : Flags := { p with b := b, d := d, i := f }

/-- The state with other values of B, D and I. -/
def withInert (b d f : Bool) (s : State) : State := setFlags (s.p.withInert b d f) s

section
variable (b d f : Bool)

/-! ## The named updates and the accessors -/

@[simp] theorem withInert_p (s : State) : (withInert b d f s).p = s.p.withInert b d f := rfl

@[simp] theorem withInert_pc (s : State) : (withInert b d f s).pc = s.pc := rfl

@[simp] theorem cell_withInert (s : State) (a : Word) : cell (withInert b d f s) a = cell s a := rfl

@[simp] theorem getReg_withInert (r : Reg) (s : State) :
    getReg r (withInert b d f s) = getReg r s := getReg_setFlags ..

theorem setPC_withInert (v : Word) (s : State) :
    setPC v (withInert b d f s) = withInert b d f (setPC v s) := rfl

theorem setZN_withInert (v : Byte) (s : State) :
    setZN v (withInert b d f s) = withInert b d f (setZN v s) := rfl

theorem setReg_withInert (r : Reg) (v : Byte) (s : State) :
    setReg r v (withInert b d f s) = withInert b d f (setReg r v s) := by cases r <;> rfl

theorem memRead_withInert (a : Word) (s : State) :
    memRead a (withInert b d f s) = ((memRead a s).1, withInert b d f (memRead a s).2) := by
  simp only [memRead_eq, cell_withInert]
  split <;> rfl

theorem memWrite_withInert (a : Word) (v : Byte) (s : State) :
    memWrite a v (withInert b d f s) = withInert b d f (memWrite a v s) := by
  unfold memWrite
  split
  · rfl
  · rfl
  · simp only []
    split
    · rfl
    · split <;> rfl

theorem fetched1_withInert (s : State) :
    fetched1 (withInert b d f s) = withInert b d f (fetched1 s) := by
  rw [fetched1_eq, fetched1_eq]
  exact congrArg (setPC (s.pc + 1)) (congrArg Prod.snd (memRead_withInert b d f s.pc s))

theorem fetched2_withInert (s : State) :
    fetched2 (withInert b d f s) = withInert b d f (fetched2 s) := by
  rw [fetched2, fetched1_withInert, fetched1_withInert, fetched2]

theorem readPair_withInert (lo hi : Word) (s : State) :
    readPair lo hi (withInert b d f s) =
      ((readPair lo hi s).1, withInert b d f (readPair lo hi s).2) := by
  simp only [readPair, memRead_withInert]

/-! ## Operands -/

/-- A resolver neither reads nor writes P. -/
theorem resolve_withInert (m : MemOperand) (s : State) :
    resolve m (withInert b d f s) =
      { resolve m s with state := withInert b d f (resolve m s).state } := by
  cases m with
  | zeroPage z | zeroPageX z | zeroPageY z =>
    exact congrArg (Resolved.mk _ _) (fetched1_withInert b d f s)
  | absolute a | absoluteX a | absoluteY a =>
    exact congrArg (Resolved.mk _ _) (fetched2_withInert b d f s)
  | indexedIndirect z =>
    simp only [resolve, resolveIndexedIndirect, fetched1_withInert, readPair_withInert]
    rfl
  | indirectIndexed z =>
    simp only [resolve, resolveIndirectIndexed, fetched1_withInert, readPair_withInert]
    rfl

theorem resolveJump_withInert (o : JumpOperand) (s : State) :
    resolveJump o (withInert b d f s) =
      { resolveJump o s with state := withInert b d f (resolveJump o s).state } := by
  cases o with
  | absolute a => exact congrArg (Resolved.mk _ _) (fetched2_withInert b d f s)
  | indirect a => simp only [resolveJump, fetched2_withInert, readPair_withInert]

theorem readOperand_withInert (o : ReadOperand) (s : State) :
    readOperand o (withInert b d f s) =
      ((readOperand o s).1, withInert b d f (readOperand o s).2) := by
  cases o with
  | immediate v => exact congrArg (Prod.mk v) (fetched1_withInert b d f s)
  | memory m => simp only [readOperand, resolve_withInert, memRead_withInert]

theorem passOperand_withInert (o : UndocOperand) (s : State) :
    passOperand o (withInert b d f s) = withInert b d f (passOperand o s) := by
  cases o with
  | implied => rfl
  | immediate v => rfl
  | memory m => exact congrArg Resolved.state (resolve_withInert b d f m s)

/-! ## The shared operations -/

theorem load_withInert (r : Reg) (o : ReadOperand) (s : State) :
    load r o (withInert b d f s) = withInert b d f (load r o s) := by
  simp only [load_eq, readOperand_withInert, setReg_withInert, setZN_withInert]

theorem writeOperand_withInert (m : MemOperand) (v : Byte) (s : State) :
    writeOperand m v (withInert b d f s) = withInert b d f (writeOperand m v s) := by
  simp only [writeOperand_eq, resolve_withInert, memWrite_withInert]

theorem transfer_withInert (src dst : Reg) (s : State) :
    transfer src dst (withInert b d f s) = withInert b d f (transfer src dst s) := by
  simp only [transfer, getReg_withInert, setReg_withInert, setZN_withInert]

theorem logic_withInert (g : Byte → Byte → Byte) (o : ReadOperand) (s : State) :
    logic g o (withInert b d f s) = withInert b d f (logic g o s) := by
  simp only [logic_eq, readOperand_withInert, setReg_withInert]
  rfl

theorem arith_withInert (g : Byte → Byte → Bool → AluResult) (o : ReadOperand) (s : State) :
    arith g o (withInert b d f s) = withInert b d f (arith g o s) := by
  simp only [arith_eq, readOperand_withInert, setReg_withInert]
  rfl

theorem compareReg_withInert (r : Reg) (o : ReadOperand) (s : State) :
    compareReg r o (withInert b d f s) = withInert b d f (compareReg r o s) := by
  simp only [compareReg_eq, readOperand_withInert, getReg_withInert]
  rfl

theorem bitTest_withInert (m : MemOperand) (s : State) :
    bitTest m (withInert b d f s) = withInert b d f (bitTest m s) := by
  simp only [bitTest_eq, readOperand_withInert]
  rfl

/-- An operation of a byte and P that neither reads B, D and I nor writes them. -/
def IgnoresInert (g : Byte → Flags → Byte × Flags) : Prop :=
  ∀ (b d f : Bool) (v : Byte) (p : Flags),
    g v (p.withInert b d f) = ((g v p).1, (g v p).2.withInert b d f)

section
variable {g : Byte → Flags → Byte × Flags} (hg : IgnoresInert g)
include hg

theorem modifyOperand_withInert (m : MemOperand) (s : State) :
    modifyOperand g m (withInert b d f s) = withInert b d f (modifyOperand g m s) := by
  simp only [modifyOperand_eq, readOperand_withInert, resolve_withInert, withInert_p, hg b d f,
    memWrite_withInert]
  rfl

theorem modifyReg_withInert (r : Reg) (s : State) :
    modifyReg g r (withInert b d f s) = withInert b d f (modifyReg g r s) := by
  simp only [modifyReg_eq, getReg_withInert, withInert_p, hg b d f, setReg_withInert]
  rfl

theorem shift_withInert (o : ShiftOperand) (s : State) :
    shift g o (withInert b d f s) = withInert b d f (shift g o s) := by
  cases o with
  | accumulator => exact modifyReg_withInert b d f hg .a s
  | memory m => exact modifyOperand_withInert b d f hg m s

end

theorem branch_withInert (taken : Bool) (disp : Byte) (s : State) :
    branch taken disp (withInert b d f s) = withInert b d f (branch taken disp s) := by
  simp only [branch_eq, fetched1_withInert, setPC_withInert, withInert_pc]

theorem jumpTo_withInert (o : JumpOperand) (s : State) :
    jumpTo o (withInert b d f s) = withInert b d f (jumpTo o s) := by
  simp only [jumpTo_eq, resolveJump_withInert, setPC_withInert]

theorem push_withInert (v : Byte) (s : State) :
    push v (withInert b d f s) = withInert b d f (push v s) := by
  simp only [push_eq]
  rfl

theorem pushWord_withInert (v : Word) (s : State) :
    pushWord v (withInert b d f s) = withInert b d f (pushWord v s) := by
  rw [pushWord, push_withInert, push_withInert, pushWord]

theorem callSubroutine_withInert (a : Word) (s : State) :
    callSubroutine a (withInert b d f s) = withInert b d f (callSubroutine a s) := by
  simp only [callSubroutine_eq, fetched2_withInert, pushWord_withInert, setPC_withInert,
    withInert_pc]

theorem returnSubroutine_withInert (s : State) :
    returnSubroutine (withInert b d f s) = withInert b d f (returnSubroutine s) := by
  simp only [returnSubroutine_eq]
  rfl

theorem pullA_withInert (s : State) :
    pullA (withInert b d f s) = withInert b d f (pullA s) := by
  simp only [pullA_eq]
  rfl

/-- PLP loads B, D and I, whatever they were. -/
theorem pullFlags_withInert (s : State) :
    pullFlags (withInert b d f s) =
      withInert (pullFlags s).p.b (pullFlags s).p.d (pullFlags s).p.i (pullFlags s) := by
  simp only [pullFlags_eq]
  rfl

/-- RTI loads B, D and I, whatever they were. -/
theorem leaveTrap_withInert (s : State) :
    leaveTrap (withInert b d f s) =
      withInert (leaveTrap s).p.b (leaveTrap s).p.d (leaveTrap s).p.i (leaveTrap s) := by
  simp only [leaveTrap_eq]
  rfl

end

/-! ## The statement -/

theorem next_congr {s t : State} (h : s = t) :
    (.next s : Host.Outcome State Fault Refusal) = .next t := congrArg Host.Outcome.next h

/-- Settles O59: an instruction commutes with a change of B, D and I, but for CLI, SEI, CLD and SED,
which fix one of the three, and PLP and RTI, which load them all. -/
theorem breakDecimalInterruptInert : Obligations.BreakDecimalInterruptInert := by
  intro i s b d f hphp hbrk
  change ∃ t b' d' f', exec i s = .next t ∧
    exec i (withInert b d f s) = .next (withInert b' d' f' t)
  cases i with
  | lda o | ldx o | ldy o => exact ⟨_, b, d, f, rfl, next_congr (load_withInert ..)⟩
  | sta m | stx m | sty m => exact ⟨_, b, d, f, rfl, next_congr (writeOperand_withInert ..)⟩
  | tax | tay | txa | tya | tsx => exact ⟨_, b, d, f, rfl, next_congr (transfer_withInert ..)⟩
  | ora o | and o | eor o => exact ⟨_, b, d, f, rfl, next_congr (logic_withInert ..)⟩
  | adc o | sbc o => exact ⟨_, b, d, f, rfl, next_congr (arith_withInert ..)⟩
  | cmp o | cpx o | cpy o => exact ⟨_, b, d, f, rfl, next_congr (compareReg_withInert ..)⟩
  | bit m => exact ⟨_, b, d, f, rfl, next_congr (bitTest_withInert ..)⟩
  | inc m | dec m =>
    exact ⟨_, b, d, f, rfl, next_congr (modifyOperand_withInert _ _ _ (fun _ _ _ _ _ => rfl) ..)⟩
  | inx | iny | dex | dey =>
    exact ⟨_, b, d, f, rfl, next_congr (modifyReg_withInert _ _ _ (fun _ _ _ _ _ => rfl) ..)⟩
  | asl o | lsr o | rol o | ror o =>
    exact ⟨_, b, d, f, rfl, next_congr (shift_withInert _ _ _ (fun _ _ _ _ _ => rfl) ..)⟩
  | bpl e | bmi e | bvc e | bvs e | bcc e | bcs e | bne e | beq e =>
    exact ⟨_, b, d, f, rfl, next_congr (branch_withInert ..)⟩
  | jmp o => exact ⟨_, b, d, f, rfl, next_congr (jumpTo_withInert ..)⟩
  | jsr a => exact ⟨_, b, d, f, rfl, next_congr (callSubroutine_withInert ..)⟩
  | rts => exact ⟨_, b, d, f, rfl, next_congr (returnSubroutine_withInert ..)⟩
  | pha => exact ⟨_, b, d, f, rfl, next_congr (push_withInert ..)⟩
  | pla => exact ⟨_, b, d, f, rfl, next_congr (pullA_withInert ..)⟩
  | txs | clc | sec | clv | nop => exact ⟨_, b, d, f, rfl, rfl⟩
  | cli => exact ⟨_, b, d, false, rfl, rfl⟩
  | sei => exact ⟨_, b, d, true, rfl, rfl⟩
  | cld => exact ⟨_, b, false, f, rfl, rfl⟩
  | sed => exact ⟨_, b, true, f, rfl, rfl⟩
  | plp => exact ⟨_, _, _, _, rfl, next_congr (pullFlags_withInert b d f s)⟩
  | rti => exact ⟨_, _, _, _, rfl, next_congr (leaveTrap_withInert b d f s)⟩
  | undoc op o =>
    cases h : s.params.undocPolicy with
    | nop =>
      exact ⟨_, b, d, f, exec_undoc_nop op o s h,
        (exec_undoc_nop op o (withInert b d f s) h).trans (next_congr (passOperand_withInert ..))⟩
    | fault => exact ⟨_, b, d, f, exec_undoc_fault op o s h, exec_undoc_fault op o _ h⟩
  | php => exact absurd rfl hphp
  | brk => exact absurd rfl hbrk

end Sys2Proof.Machine
end

section
/-! SUPPORT. The step as the host sees it: the instruction at PC is the one it runs, and the count it
returns is that instruction's. Then the host's transactions. -/

namespace Sys2Proof.Machine

/-! ## The instruction at PC -/

/-- Of three bytes in a row the decoder refuses none. -/
theorem decode_three {op b1 b2 : Byte} {i : Instr} {rest : List Byte}
    (h : decode [op, b1, b2] = .ok (i, rest)) : decodeOp op b1 b2 = i := by
  simp only [decode] at h
  split at h
  · cases h
  · exact (Prod.mk.inj (Except.ok.inj h)).1

/-- Every eighth address of the window reaches PPUSTATUS (20_memory.md R53). -/
theorem mod_eight_of_cellOf {a : Word} (h : cellOf a = ppuStatus) : a.toNat % 8 = 2 := by
  cases hr : region a with
  | ppuReg =>
    have hnat := ppuRegOf_toNat a
    rw [← cellOf_ppuReg hr, h] at hnat
    simp [ppuStatus] at hnat
    omega
  | store | rom => exact absurd h (region_ne_of_cellOf region_ppuStatus (by simp [hr]))

/-- Neither of the two addresses after one that reaches PPUSTATUS does. -/
theorem cellOf_add_ne {a k : Word} (h : cellOf a = ppuStatus) (hk : k = 1 ∨ k = 2) :
    cellOf (a + k) ≠ ppuStatus := by
  intro hak
  have ha := mod_eight_of_cellOf h
  have hnext := mod_eight_of_cellOf hak
  rw [BitVec.toNat_add] at hnext
  rcases hk with rfl | rfl <;> simp at hnext <;> omega

/-- The opcode fetch does not change the two bytes after it: a fetch that clears PPUSTATUS bit 7 has
neither of them there (log entry 9). -/
theorem peek_fetched1 {k : Word} (s : State) (hk : k = 1 ∨ k = 2) :
    peek (s.pc + k) (fetched1 s) = peek (s.pc + k) s := by
  rw [peek_eq, peek_eq]
  by_cases h : cellOf s.pc = ppuStatus
  · exact (fetched1_afterReads s).cell (cellOf_add_ne h hk)
  · rw [fetched1_quiet s h, cell_setPC]

/-- FETCH and DECODE give the instruction that the bytes at PC are. -/
theorem fetchInstr_eq {s : State} {i : Instr} {rest : List Byte}
    (h : decode [peek s.pc s, peek (s.pc + 1) s, peek (s.pc + 2) s] = .ok (i, rest)) :
    fetchInstr s = (i, fetched1 s) := by
  have hpc : s.pc + 1 + 1 = s.pc + 2 := by rw [BitVec.add_assoc]; rfl
  have hahead : operandAhead (fetched1 s) = (peek (s.pc + 1) s, peek (s.pc + 2) s) := by
    rw [operandAhead, fetched1_pc, hpc, peek_fetched1 s (.inl rfl), peek_fetched1 s (.inr rfl)]
  simp only [fetchInstr, fetch8_snd, hahead, fetch8_fst, ← peek_eq]
  rw [decode_three h]

/-! ## The step and its count -/

@[simp] theorem accountCycles_faulted (c : Nat) (s : State) :
    (accountCycles c s).faulted = s.faulted := by
  rw [accountCycles_eq, ppuTicks_rest]

@[simp] theorem accountCycles_cycleTotal (c : Nat) (s : State) :
    (accountCycles c s).cycleTotal = s.cycleTotal + c := by
  rw [accountCycles_eq]

theorem step_of_faulted {s : State} (h : s.faulted = true) :
    step s = .fault (.stopped s.faultReason) := if_pos h

/-- A step of an unfaulted state completes; the total rises by the count of the instruction at PC,
unless that instruction faults. -/
theorem step_of_decode {s : State} {i : Instr} {rest : List Byte} (hf : s.faulted = false)
    (h : decode [peek s.pc s, peek (s.pc + 1) s, peek (s.pc + 2) s] = .ok (i, rest)) :
    ∃ t, step s = .next t ∧
      (t.faulted = false → t.cycleTotal = s.cycleTotal + cycles i (fetched1 s)) := by
  obtain ⟨u, hexec, hframe⟩ := exec_frame i (fetched1 s)
  have hstep : step s = .next (finishStep (cycles i (fetched1 s)) u) := by
    rw [step, hf, fetchInstr_eq h]
    simp only [runInstr, hexec]
    rfl
  refine ⟨_, hstep, fun hu => ?_⟩
  have hu' : u.faulted = false := by
    cases hcase : u.faulted with
    | false => rfl
    | true => rw [finishStep, if_pos hcase, hcase] at hu; exact hu
  rw [finishStep, hu', if_neg Bool.false_ne_true, accountCycles_cycleTotal,
    hframe.clock.cycleTotal, (fetched1_afterReads s).cycleTotal]

/-- `STEP` of a running block returns the count of the instruction at PC, and none when it faults. -/
theorem block_step_of_decode (cart : Cart) {s : State} {i : Instr} {rest : List Byte}
    (hf : s.faulted = false)
    (h : decode [peek s.pc s, peek (s.pc + 1) s, peek (s.pc + 2) s] = .ok (i, rest)) :
    ∃ t, step s = .next t ∧
      (Block.running cart s).step =
        .next (.running cart t, if t.faulted then none else some (cycles i (fetched1 s))) := by
  obtain ⟨t, hstep, htotal⟩ := step_of_decode hf h
  refine ⟨t, hstep, ?_⟩
  simp only [Block.step, hstep]
  cases htf : t.faulted with
  | true => rfl
  | false => rw [htotal htf, Nat.add_sub_cancel_left]

theorem block_step_of_faulted (cart : Cart) {s : State} (h : s.faulted = true) :
    (Block.running cart s).step = .fault (.stopped s.faultReason) := by
  simp only [Block.step, step_of_faulted h]

/-! ## The statement -/

/-- CONFIGURE's check, field by field (20_memory.md R70, log entry 12). -/
theorem accepts_iff (cart : Cart) :
    accepts cart = true ↔ cart.mapper = 0 ∧ cart.prgRomSizeKB = 16 ∧ cart.hasBatteryRAM = false ∧
      cart.imageOk = true ∧ cart.prg.length = 16384 := by
  simp [accepts, and_assoc]

/-- Settles O53: a refusal is one clause of the transaction's definition, RESET reads nothing of the
state before it but the parameters, so that it evaluates from any, and the count of a running
block's STEP is that of `block_step_of_decode`. -/
theorem hostRefusals : Obligations.HostRefusals := by
  intro cart cart' params params' s
  refine ⟨congrArg _ (if_congr (accepts_iff cart) rfl rfl), rfl, ?_, rfl, rfl, fun _ => rfl, rfl,
    rfl, rfl, block_step_of_faulted cart, fun i rest => block_step_of_decode cart, ?_⟩
  · intro b hb
    simp only [List.mem_cons, List.not_mem_nil, or_false] at hb
    rcases hb with rfl | rfl <;> exact ⟨rfl, rfl, fun _ => rfl⟩
  · intro q
    cases q with
    | reg r => cases r <;> rfl
    | pc | flags | statusByte | peek a | vram k | vaddr | w | ppuCycle | faulted | cycleTotal => rfl

end Sys2Proof.Machine
end

section
/-! SUPPORT. The bus, address by address: what an access does in storage, in ROM and at each register
of the PPU window. -/

namespace Sys2Proof.Machine

/-! ## Regions -/

/-- The window of the PPU registers and their mirrors (20_memory.md R51). -/
theorem region_eq_ppuReg_iff (a : Word) :
    region a = .ppuReg ↔ 0x2000 ≤ a.toNat ∧ a.toNat ≤ 0x3FFF := by
  unfold region
  split
  · next h => exact iff_of_true rfl h
  · next h => exact iff_of_false (by split <;> exact fun k => nomatch k) h

/-- The ROM region (R51). -/
theorem region_eq_rom_iff (a : Word) : region a = .rom ↔ 0x8000 ≤ a.toNat := by
  unfold region
  split
  · next h => exact iff_of_false (fun k => nomatch k) (by omega)
  · split
    · next h => exact iff_of_true rfl h
    · next h => exact iff_of_false (fun k => nomatch k) h

/-- Outside the window an address reaches its own cell. -/
theorem cellOf_outside {a : Word} (h : region a ≠ .ppuReg) : cellOf a = a := by
  cases hr : region a with
  | ppuReg => exact absurd hr h
  | store => exact cellOf_store hr
  | rom => exact cellOf_rom hr

/-- An access and the cell it reaches are routed alike. -/
theorem region_cellOf (a : Word) : region (cellOf a) = region a := by
  by_cases h : region a = .ppuReg
  · rw [cellOf_ppuReg h, h, region_ppuRegOf]
  · rw [cellOf_outside h]

/-- The register that an address of the window reaches, by its low three bits (R53). -/
theorem cellOf_window {a : Word} {k : Nat} (h : region a = .ppuReg) (hk : a.toNat % 8 = k) :
    cellOf a = BitVec.ofNat 16 (0x2000 + k) := by
  rw [cellOf_ppuReg h, ← hk, ← ppuRegOf_toNat, BitVec.ofNat_toNat, BitVec.setWidth_eq]

/-- The low three bits of an address that reaches a register of the window are the register's. -/
theorem cellOf_toNat_mod_eight (a : Word) : (cellOf a).toNat % 8 = a.toNat % 8 := by
  by_cases h : region a = .ppuReg
  · rw [cellOf_ppuReg h, ppuRegOf_toNat]
    omega
  · rw [cellOf_outside h]

theorem cellOf_ne_of_mod_eight {a r : Word} (h : a.toNat % 8 ≠ r.toNat % 8) : cellOf a ≠ r :=
  fun he => h (he ▸ (cellOf_toNat_mod_eight a).symm)

/-! ## Reads -/

/-- A read outside the window has no side effect. -/
theorem memRead_outside {a : Word} (s : State) (h : region a ≠ .ppuReg) :
    memRead a s = (cell s a, s) := by
  rw [memRead_eq, if_neg (region_ne_of_cellOf region_ppuStatus h), cellOf_outside h]

/-- Settles O9: outside the window, at PPUSTATUS, and at the seven other registers. -/
theorem busRead : Obligations.BusRead := by
  intro a s
  split
  · next hwin =>
    have hreg := (region_eq_ppuReg_iff a).mpr hwin
    split
    · next h2 =>
      have hst : cellOf a = ppuStatus := cellOf_window hreg h2
      rw [memRead_eq, hst, if_pos rfl]
      exact ⟨rfl, rfl, cell_setCell_self .., fun b hb => cell_setCell_ne _ s hb⟩
    · next h2 =>
      have hst : cellOf a ≠ ppuStatus := cellOf_ne_of_mod_eight h2
      rw [memRead_eq, if_neg hst, cellOf_ppuReg hreg]
      rfl
  · next hwin => exact memRead_outside s fun hreg => hwin ((region_eq_ppuReg_iff a).mp hreg)

/-! ## Writes -/

/-- Settles O10, by the region of the address. -/
theorem storageAndRomWrites : Obligations.StorageAndRomWrites := by
  intro a v s hwin
  split
  · next hrom =>
    have h : region a = .rom := (region_eq_rom_iff a).mpr hrom
    simp only [memWrite, h]
  · next hrom =>
    have h : region a = .store := by
      cases hr : region a with
      | store => rfl
      | ppuReg => exact absurd ((region_eq_ppuReg_iff a).mp hr) hwin
      | rom => exact absurd ((region_eq_rom_iff a).mp hr) hrom
    rw [memWrite_store v s h, memRead_store _ h, cell_setCell_self]
    exact ⟨rfl, rfl, fun b hb => cell_setCell_ne v s hb⟩

/-- Settles O11: these registers are neither PPUADDR nor PPUDATA, and not in ROM. -/
theorem plainRegisterWrite : Obligations.PlainRegisterWrite := by
  intro a v s hlo hhi h
  have hreg := (region_eq_ppuReg_iff a).mpr ⟨hlo, hhi⟩
  have h6 : cellOf a ≠ ppuAddr := cellOf_ne_of_mod_eight (by simp [ppuAddr]; omega)
  have h7 : cellOf a ≠ ppuData := cellOf_ne_of_mod_eight (by simp [ppuData]; omega)
  have hrom : region a ≠ .rom := by simp [hreg]
  rw [memWrite_plain a v s h6 h7, if_neg hrom, cellOf_ppuReg hreg]
  exact ⟨rfl, cell_setCell_self .., fun b hb => cell_setCell_ne v s hb⟩

/-- Only the window reaches a register, so a bus write there is to a register. -/
theorem region_of_cellOf {a r : Word} (hr : region r = .ppuReg) (h : cellOf a = r) :
    region a = .ppuReg := by rw [← region_cellOf, h, hr]

theorem memWrite_ppuAddr {a : Word} (v : Byte) (s : State) (h : cellOf a = ppuAddr) :
    memWrite a v s = ppuAddrWrite v (setCell ppuAddr v s) := by
  have hreg := region_of_cellOf (by decide) h
  rw [cellOf_ppuReg hreg] at h
  simp only [memWrite, hreg, h, ↓reduceIte]

theorem memWrite_ppuData {a : Word} (v : Byte) (s : State) (h : cellOf a = ppuData) :
    memWrite a v s = ppuDataWrite v (setCell ppuData v s) := by
  have hreg := region_of_cellOf (by decide) h
  have hne : ppuData ≠ ppuAddr := by decide
  rw [cellOf_ppuReg hreg] at h
  simp only [memWrite, hreg, h, hne, ↓reduceIte]

/-! ## Words byte by byte -/

theorem word_and_word (h l h' l' : Byte) :
    word h l &&& word h' l' = word (h &&& h') (l &&& l') := BitVec.and_append

theorem word_or_word (h l h' l' : Byte) :
    word h l ||| word h' l' = word (h ||| h') (l ||| l') := BitVec.or_append

theorem setWidth_eq_word (v : Byte) : v.setWidth 16 = word 0 v := by
  apply BitVec.eq_of_getLsbD_eq
  intro i hi
  rw [getLsbD_word, BitVec.getLsbD_setWidth]
  split
  · simp [hi]
  · next h => simp [BitVec.getLsbD_of_ge v i (by omega)]

theorem setWidth_shiftLeft_eq_word (v : Byte) : v.setWidth 16 <<< 8 = word v 0 := by
  apply BitVec.eq_of_getLsbD_eq
  intro i hi
  rw [getLsbD_word, BitVec.getLsbD_shiftLeft, BitVec.getLsbD_setWidth]
  split
  · next h => simp [h]
  · next h => simp [h, hi]; omega

/-- A write of the low half of the VRAM address, as masks (R60). -/
theorem word_hiByte_eq (a : Word) (v : Byte) :
    word (hiByte a) v = (a &&& 0xFF00) ||| v.setWidth 16 := by
  have hmask : (0xFF00 : Word) = word (BitVec.allOnes 8) 0 := rfl
  conv_rhs => rw [← word_hiByte_loByte a, hmask, setWidth_eq_word, word_and_word, word_or_word,
    BitVec.and_allOnes]
  simp

/-- A write of the high half of the VRAM address, as masks (R60). -/
theorem word_loByte_eq (a : Word) (v : Byte) :
    word v (loByte a) = (v.setWidth 16 <<< 8) ||| (a &&& 0x00FF) := by
  have hmask : (0x00FF : Word) = word 0 (BitVec.allOnes 8) := rfl
  conv_rhs => rw [← word_hiByte_loByte a, hmask, setWidth_shiftLeft_eq_word, word_and_word,
    word_or_word, BitVec.and_allOnes]
  simp

/-! ## PPUADDR and PPUDATA -/

/-- Settles O12: the write's equation, the halves of its address as masks, and the second write in the
phase that the first one leaves. -/
theorem Window.ppuAddrWrite : Obligations.PpuAddrWrite := by
  intro a v s hlo hhi h
  have hwrite (u : Byte) (r : State) := memWrite_ppuAddr u r
    (cellOf_window ((region_eq_ppuReg_iff a).mpr ⟨hlo, hhi⟩) h)
  refine ⟨?_, ?_, ?_, ?_, fun b hb => ?_, fun lo hw => ?_⟩
  · rw [hwrite]
    rfl
  · rw [hwrite, ← word_hiByte_eq, ← word_loByte_eq]
    rfl
  · rw [hwrite]
    rfl
  · rw [hwrite]
    exact cell_setCell_self ppuAddr v s
  · rw [hwrite]
    exact cell_setCell_ne v s hb
  · rw [hwrite, hwrite]
    simp [Machine.ppuAddrWrite, hw]
    rfl

/-- Settles O13: the write's equation. PPUCTRL is another cell than PPUDATA, so the increment is
that of the state before. -/
theorem Window.ppuDataWrite : Obligations.PpuDataWrite := by
  intro a v s hlo hhi h
  have hwrite := memWrite_ppuData v s (cellOf_window ((region_eq_ppuReg_iff a).mpr ⟨hlo, hhi⟩) h)
  have hctrl : cell (setCell ppuData v s) ppuCtrl = cell s ppuCtrl :=
    cell_setCell_ne v s (by decide)
  rw [hwrite]
  refine ⟨rfl, ?_, fun k hk => ?_, ?_, cell_setCell_self ppuData v s,
    fun b hb => cell_setCell_ne v s hb⟩
  · exact (vramCell_setVramCell ..).trans (if_pos rfl)
  · exact (vramCell_setVramCell ..).trans (if_neg hk)
  · simp only [Machine.ppuDataWrite, vramIncrement, hctrl]
    rfl

end Sys2Proof.Machine
end

section
/-! SUPPORT. Fetches and operand accesses: which reads they make, and so what becomes of PPUSTATUS. -/

namespace Sys2Proof.Machine

/-! ## Fetches -/

/-- After one fetch the next returns what was seen at PC + 1 before it: that byte lies in PPUSTATUS
only where the fetched one does not. -/
theorem fetch8_fetched1_fst (s : State) : (fetch8 (fetched1 s)).1 = peek (s.pc + 1) s := by
  rw [fetch8_fst, fetched1_pc, ← peek_eq, peek_fetched1 s (.inl rfl)]

theorem fetch8_fetched2_fst (s : State) : (fetch8 (fetched2 s)).1 = peek (s.pc + 2) s := by
  have hpc : s.pc + 1 + 1 = s.pc + 2 := by rw [BitVec.add_assoc]; rfl
  rw [fetched2, fetch8_fetched1_fst, fetched1_pc, hpc, peek_fetched1 s (.inr rfl)]

/-- Settles O6: the bytes of the second and third fetch by the two lemmas above, the rest by those
about one fetch. -/
theorem operandFetchesGiveTheDecodedBytes : Obligations.OperandFetchesGiveTheDecodedBytes :=
  fun s => ⟨rfl, rfl, fetched1_afterReads s, fetched1_pc s, fetched1_status s, rfl,
    fetch8_fetched1_fst s, fetch8_fetched2_fst s,
    congrArg (Prod.mk _) (fetch8_fetched1_fst (fetched1 s)).symm⟩

/-! ## Resolvers -/

theorem readPair_zeroPage_snd (a b : Byte) (s : State) :
    (readPair (zext16 a) (zext16 b) s).2 = s := by rw [readPair_zeroPage]

/-- The reads of a resolver that can have an effect are its operand fetches, one or two: pointers are
read from the zero page. -/
theorem resolve_state (m : MemOperand) (s : State) :
    m.mode.length = 2 ∧ (resolve m s).state = fetched1 s ∨
    m.mode.length = 3 ∧ (resolve m s).state = fetched2 s := by
  cases m with
  | zeroPage b | zeroPageX b | zeroPageY b => exact .inl ⟨rfl, rfl⟩
  | absolute a | absoluteX a | absoluteY a => exact .inr ⟨rfl, rfl⟩
  | indexedIndirect b | indirectIndexed b => exact .inl ⟨rfl, readPair_zeroPage_snd ..⟩

/-- A resolver clears PPUSTATUS bit 7 exactly when an operand byte lies there (20_memory.md R55). -/
theorem resolve_status (m : MemOperand) (s : State) :
    cell (resolve m s).state ppuStatus = statusAfter (operandInStatus m.mode s) s := by
  rcases resolve_state m s with ⟨hlen, hstate⟩ | ⟨hlen, hstate⟩
  · rw [hstate, fetched1_status, operandInStatus_one s hlen]
  · rw [hstate, fetched2_status, operandInStatus_two s hlen, operandInStatus_two s rfl]

/-- The reading of a memory operand clears PPUSTATUS bit 7 exactly when an operand byte or the
effective address reaches it. -/
theorem readOperand_memory_status (m : MemOperand) (s : State) :
    cell (readOperand (.memory m) s).2 ppuStatus =
      statusAfter (operandInStatus m.mode s || cellOf (resolve m s).ea == ppuStatus) s :=
  (memRead_status _ _).trans (statusAfter_statusAfter _ (resolve_status m s))

/-- Settles O16, by the lemmas about the resolver and about the reading of an operand. -/
theorem operandAccessesOnlyRead : Obligations.OperandAccessesOnlyRead := fun m o s =>
  ⟨resolve_status m s, fun _ => fetched1_status s, readOperand_memory_status m s,
    resolve_afterReads m s, resolve_pc m s, readOperand_afterReads o s, readOperand_pc o s,
    fun _ => rfl, rfl⟩

/-- A resolver that fetches nothing from PPUSTATUS moves PC and does nothing else. -/
theorem resolve_quiet {m : MemOperand} {s : State}
    (h : ∀ k : Nat, k < m.mode.length - 1 → cellOf (s.pc + BitVec.ofNat 16 k) ≠ ppuStatus) :
    (resolve m s).state = setPC (s.pc + operandSpan m.mode) s := by
  have hzero : s.pc + BitVec.ofNat 16 0 = s.pc := BitVec.add_zero _
  have hfirst (hlen : 2 ≤ m.mode.length) : cellOf s.pc ≠ ppuStatus := hzero ▸ h 0 (by omega)
  rw [← resolve_pc]
  rcases resolve_state m s with ⟨hlen, hstate⟩ | ⟨hlen, hstate⟩
  · rw [hstate, fetched1_pc, fetched1_quiet s (hfirst hlen.ge)]
  · rw [hstate, fetched2_pc, fetched2_quiet s (hfirst (by omega)) (h 1 (by omega))]

/-- Settles O17: the fetches, and then the read at the effective address, do not reach PPUSTATUS. -/
theorem quietOperandAccesses : Obligations.QuietOperandAccesses := fun _ _ s =>
  ⟨fetched1_quiet s, fun h => ⟨resolve_quiet h, fun hea =>
    (memRead_quiet _ hea).trans (resolve_quiet h)⟩⟩

end Sys2Proof.Machine
end

section
/-! SUPPORT. What an instruction can do to memory and to the fault, said once for all of them: it
reads, it writes registers and P, and where it is a form that makes bus writes it makes them. -/

namespace Sys2Proof.Machine

/-- `t` is reached from `s` by bus reads, by writes to PC, P and the registers, and, where `writes`
allows it, by bus writes. -/
inductive Accesses (writes : Bool) (s : State) : State → Prop
  | reads {t : State} : AfterReads s t → Accesses writes s t
  | pc {t : State} (v : Word) : Accesses writes s t → Accesses writes s (setPC v t)
  | flags {t : State} (q : Flags) : Accesses writes s t → Accesses writes s (setFlags q t)
  | reg {t : State} (r : Reg) (v : Byte) : Accesses writes s t → Accesses writes s (setReg r v t)
  | write {t : State} (a : Word) (v : Byte) :
    writes = true → Accesses writes s t → Accesses writes s (memWrite a v t)

namespace Accesses

variable {writes : Bool} {s t : State}

theorem refl (writes : Bool) (s : State) : Accesses writes s s := reads (.refl s)

theorem push (h : Accesses true s t) (v : Byte) : Accesses true s (push v t) :=
  (h.write (stackAddr t.sp) v rfl).reg .sp _

theorem pushWord (h : Accesses true s t) (v : Word) : Accesses true s (pushWord v t) :=
  (h.push _).push _

/-- A read-modify-write is one read, one write and an update of P. -/
theorem modifyOperand (f : Byte → Flags → Byte × Flags) (m : MemOperand) (s : State) :
    Accesses true s (modifyOperand f m s) := by
  rw [modifyOperand_eq]
  exact ((reads (readOperand_afterReads _ s)).write _ _ rfl).flags _

/-- A shift or rotate writes to the bus unless its operand is A. -/
theorem shift (f : Byte → Flags → Byte × Flags) (o : ShiftOperand) (s : State) :
    Accesses (o != .accumulator) s (shift f o s) := by
  cases o with
  | accumulator => exact ((refl _ s).reg .a _).flags _
  | memory m => exact modifyOperand f m s

end Accesses

/-- Every instruction completes by such accesses, but for an undocumented opcode under
`UNDOC_POLICY = fault`. -/
theorem exec_accesses (i : Instr) (s : State) :
    (∃ t, exec i s = .next t ∧ Accesses (makesBusWrite i) s t) ∨
    ∃ op, s.params.undocPolicy = .fault ∧ exec i s = .next (raiseUndoc op s) := by
  have hread (writes : Bool) (o : ReadOperand) : Accesses writes s (readOperand o s).2 :=
    .reads (readOperand_afterReads o s)
  cases i with
  | lda o | ldx o | ldy o =>
    exact .inl ⟨_, rfl, load_eq .. ▸ ((hread _ o).reg _ _).flags _⟩
  | sta m | stx m | sty m =>
    exact .inl ⟨_, rfl, writeOperand_eq .. ▸
      (Accesses.reads (resolve_afterReads m s)).write _ _ rfl⟩
  | tax | tay | txa | tya | tsx => exact .inl ⟨_, rfl, ((Accesses.refl _ s).reg _ _).flags _⟩
  | txs => exact .inl ⟨_, rfl, (Accesses.refl _ s).reg .sp _⟩
  | ora o | and o | eor o =>
    exact .inl ⟨_, rfl, logic_eq .. ▸ ((hread _ o).reg _ _).flags _⟩
  | adc o | sbc o => exact .inl ⟨_, rfl, arith_eq .. ▸ ((hread _ o).reg _ _).flags _⟩
  | cmp o | cpx o | cpy o => exact .inl ⟨_, rfl, compareReg_eq .. ▸ (hread _ o).flags _⟩
  | bit m => exact .inl ⟨_, rfl, bitTest_eq .. ▸ (hread _ _).flags _⟩
  | inc m | dec m => exact .inl ⟨_, rfl, .modifyOperand ..⟩
  | inx | iny | dex | dey => exact .inl ⟨_, rfl, ((Accesses.refl _ s).reg _ _).flags _⟩
  | asl o | lsr o | rol o | ror o => exact .inl ⟨_, rfl, .shift ..⟩
  | bpl d | bmi d | bvc d | bvs d | bcc d | bcs d | bne d | beq d =>
    exact .inl ⟨_, rfl, branch_eq .. ▸ (Accesses.reads (fetched1_afterReads s)).pc _⟩
  | jmp o => exact .inl ⟨_, rfl, (Accesses.reads (resolveJump_afterReads o s)).pc _⟩
  | jsr a =>
    exact .inl ⟨_, rfl, ((Accesses.reads (fetched2_afterReads s)).pushWord _).pc _⟩
  | rts => exact .inl ⟨_, rfl, returnSubroutine_eq s ▸ ((Accesses.refl _ s).reg .sp _).pc _⟩
  | brk =>
    obtain ⟨target, heq⟩ := enterTrap_updates (s.pc - 1 + s.params.brkPcOffset.toWord) s
    exact .inl ⟨_, rfl, heq ▸ ((((Accesses.refl _ s).pushWord _).push _).flags _).pc target⟩
  | rti =>
    exact .inl ⟨_, rfl, leaveTrap_updates s ▸ (((Accesses.refl _ s).reg .sp _).flags _).pc _⟩
  | pha | php => exact .inl ⟨_, rfl, (Accesses.refl _ s).push _⟩
  | pla =>
    exact .inl ⟨_, rfl, pullA_eq s ▸ (((Accesses.refl _ s).reg .sp _).reg .a _).flags _⟩
  | plp => exact .inl ⟨_, rfl, pullFlags_eq s ▸ ((Accesses.refl _ s).reg .sp _).flags _⟩
  | clc | sec | cli | sei | clv | cld | sed => exact .inl ⟨_, rfl, (Accesses.refl _ s).flags _⟩
  | nop => exact .inl ⟨_, rfl, .refl _ s⟩
  | undoc op o =>
    cases h : s.params.undocPolicy with
    | nop => exact .inl ⟨_, exec_undoc_nop op o s h, .reads (passOperand_afterReads o s)⟩
    | fault => exact .inr ⟨op, rfl, exec_undoc_fault op o s h⟩

/-! ## What such accesses leave alone -/

@[simp] theorem cell_setFlags (q : Flags) (s : State) (b : Word) :
    cell (setFlags q s) b = cell s b := rfl

@[simp] theorem cell_setReg (r : Reg) (v : Byte) (s : State) (b : Word) :
    cell (setReg r v s) b = cell s b := by cases r <;> rfl

theorem ne_ppuStatus_of_rom {b : Word} (h : region b = .rom) : b ≠ ppuStatus := fun hb => by
  rw [hb, region_ppuStatus] at h
  cases h

/-- A bus write leaves every ROM cell (20_memory.md R58). -/
theorem cell_memWrite_rom {a b : Word} (v : Byte) (s : State) (h : region b = .rom) :
    cell (memWrite a v s) b = cell s b := by
  rw [cell_memWrite, if_neg]
  rintro ⟨rfl, hrom⟩
  exact hrom (region_cellOf a ▸ h)

namespace Accesses

variable {writes : Bool} {s t : State}

theorem rom (h : Accesses writes s t) {b : Word} (hb : region b = .rom) : cell t b = cell s b := by
  induction h with
  | reads h => exact h.cell (ne_ppuStatus_of_rom hb)
  | pc v _ ih | flags q _ ih => exact ih
  | reg r v _ ih => exact (cell_setReg ..).trans ih
  | write a v _ _ ih => exact (cell_memWrite_rom v _ hb).trans ih

theorem fault (h : Accesses writes s t) :
    t.faulted = s.faulted ∧ t.faultReason = s.faultReason := by
  induction h with
  | reads h => exact ⟨h.faulted, h.faultReason⟩
  | pc v _ ih | flags q _ ih => exact ih
  | reg r v _ ih => cases r <;> exact ih
  | write a v _ _ ih => rw [memWrite_rest]; exact ih

end Accesses

/-- From `s` to `t` MEM and the VRAM port are as after bus reads. -/
structure OnlyReadMemory (s t : State) : Prop where
  cells : ∀ b, b ≠ ppuStatus → cell t b = cell s b
  status : cell t ppuStatus = cell s ppuStatus ∨ cell t ppuStatus = cell s ppuStatus &&& 0x7F
  vram : t.vram = s.vram
  vaddr : t.vaddr = s.vaddr
  w : t.w = s.w

theorem AfterReads.onlyReadMemory {s t : State} (h : AfterReads s t) : OnlyReadMemory s t :=
  ⟨fun _ => h.cell, h.status, h.vram, h.vaddr, h.w⟩

/-- Without bus writes memory is only read. -/
theorem Accesses.onlyReadMemory {s t : State} (h : Accesses false s t) : OnlyReadMemory s t := by
  induction h with
  | reads h => exact h.onlyReadMemory
  | pc v _ ih | flags q _ ih => exact ⟨ih.cells, ih.status, ih.vram, ih.vaddr, ih.w⟩
  | reg r v _ ih => cases r <;> exact ⟨ih.cells, ih.status, ih.vram, ih.vaddr, ih.w⟩
  | write a v hwrites _ _ => cases hwrites

/-! ## The statements about every instruction -/

/-- Settles O8: without the fault of an undocumented opcode, by the accesses of every instruction and
the frame of the clock. -/
theorem everyInstructionCompletes : Obligations.EveryInstructionCompletes := by
  intro i s hnop
  rcases exec_accesses i s with ⟨t, hexec, hacc⟩ | ⟨op, hfault, -⟩
  · obtain ⟨hcycle, htotal, hparams⟩ := (frame_of_exec hexec).clock
    obtain ⟨hfaulted, hreason⟩ := hacc.fault
    exact ⟨t, hexec, hfaulted, hreason, hparams, hcycle, htotal,
      fun a ha => hacc.rom ((region_eq_rom_iff a).mpr ha)⟩
  · rw [hnop] at hfault
    cases hfault

/-- Settles O58: the accesses of a form without bus writes; an undocumented opcode's fault leaves
memory as it is. -/
theorem nonStoringFrame : Obligations.NonStoringFrame := by
  intro i s t h hwrites
  have hmem : OnlyReadMemory s t := by
    rcases exec_accesses i s with ⟨u, hexec, hacc⟩ | ⟨op, -, hexec⟩ <;>
      rw [hexec] at h <;> cases h
    · exact (hwrites ▸ hacc).onlyReadMemory
    · exact ⟨fun _ _ => rfl, .inl rfl, rfl, rfl, rfl⟩
  exact ⟨hmem.cells, hmem.status, hmem.vram, hmem.vaddr, hmem.w⟩

/-! ## ROM over a step -/

/-- An instruction leaves every ROM cell, also one that faults. -/
theorem exec_rom {i : Instr} {s t : State} (h : exec i s = .next t) {b : Word}
    (hb : region b = .rom) : cell t b = cell s b := by
  rcases exec_accesses i s with ⟨u, hexec, hacc⟩ | ⟨op, -, hexec⟩ <;>
    rw [hexec] at h <;> cases h
  · exact hacc.rom hb
  · rfl

/-- A completed step is one instruction after the opcode fetch, then its bookkeeping. -/
theorem exec_of_step {s t : State} (h : step s = .next t) :
    ∃ i u, exec i (fetched1 s) = .next u ∧ t = finishStep (cycles i (fetched1 s)) u := by
  have hsnd : (fetchInstr s).2 = fetched1 s := rfl
  obtain ⟨u, hexec, -⟩ := exec_frame (fetchInstr s).1 (fetched1 s)
  rw [step] at h
  split at h
  · cases h
  · rw [runInstr, hsnd, hexec] at h
    cases h
    exact ⟨_, u, hexec, rfl⟩

/-- The step's bookkeeping leaves every cell but PPUSTATUS. -/
theorem cell_finishStep (c : Nat) (s : State) {b : Word} (h : b ≠ ppuStatus) :
    cell (finishStep c s) b = cell s b := by
  unfold finishStep
  split
  · rfl
  · rw [accountCycles_eq]
    exact ppuTicks_cell (3 * c) s b h

theorem step_rom {s t : State} (h : step s = .next t) {b : Word} (hb : region b = .rom) :
    cell t b = cell s b := by
  obtain ⟨i, u, hexec, rfl⟩ := exec_of_step h
  have hst := ne_ppuStatus_of_rom hb
  rw [cell_finishStep _ _ hst, exec_rom hexec hb, (fetched1_afterReads s).cell hst]

/-- What the list of MEM reads as, as the cell of an address. -/
theorem readCell_eq_cell (s : State) {n : Nat} (h : n < 0x10000) :
    readCell memDefault s.mem n = cell s (BitVec.ofNat 16 n) := by
  rw [cell, BitVec.toNat_ofNat, Nat.mod_eq_of_lt h]

/-- Settles O55: both PRG copies lie in ROM. -/
theorem stepKeepsRom : Obligations.StepKeepsRom := by
  intro s t h
  have hrom (a : Word) (ha : 0x8000 ≤ a.toNat) : cell t a = cell s a :=
    step_rom h ((region_eq_rom_iff a).mpr ha)
  have hread (n : Nat) (hlo : 0x8000 ≤ n) (hhi : n < 0x10000) :
      readCell memDefault t.mem n = readCell memDefault s.mem n := by
    rw [readCell_eq_cell t hhi, readCell_eq_cell s hhi]
    exact hrom _ (by rwa [BitVec.toNat_ofNat, Nat.mod_eq_of_lt hhi])
  refine ⟨hrom, fun prg hprg k hk (hlt : k < 0x4000) => ?_⟩
  rw [hread _ (by omega) (by omega), hread _ (by omega) (by omega)]
  exact hprg k hk hlt

end Sys2Proof.Machine
end

section
/-! SUPPORT. The storing forms: operand reads, one bus write at the effective address, and an update
of P that the stores make none of. -/

namespace Sys2Proof.Machine

/-! ## What a bus write leaves of the VRAM port -/

theorem memWrite_w {a : Word} (v : Byte) (s : State) (h : cellOf a ≠ ppuAddr) :
    (memWrite a v s).w = s.w := by
  by_cases h7 : cellOf a = ppuData
  · rw [memWrite_ppuData v s h7]
    rfl
  · rw [memWrite_plain a v s h h7]
    split <;> rfl

theorem memWrite_vaddr {a : Word} (v : Byte) (s : State) (h6 : cellOf a ≠ ppuAddr)
    (h7 : cellOf a ≠ ppuData) : (memWrite a v s).vaddr = s.vaddr := by
  rw [memWrite_plain a v s h6 h7]
  split <;> rfl

theorem memWrite_vram {a : Word} (v : Byte) (s : State) (h : cellOf a ≠ ppuData) :
    (memWrite a v s).vram = s.vram := by
  by_cases h6 : cellOf a = ppuAddr
  · rw [memWrite_ppuAddr v s h6]
    rfl
  · rw [memWrite_plain a v s h6 h]
    split <;> rfl

/-! ## The reads before the write -/

/-- `u` is `s` after the reads of a storing access through `m`: PC is past the operand bytes, and of
PPUSTATUS the operand fetches decide, unless the access is to PPUSTATUS itself. -/
structure StoringReads (m : MemOperand) (s u : State) : Prop where
  reads : AfterReads s u
  pc : u.pc = s.pc + operandSpan m.mode
  status : cellOf (resolve m s).ea ≠ ppuStatus →
    cell u ppuStatus = statusAfter (operandInStatus m.mode s) s

/-- The reads of a store are the resolver's. -/
theorem resolve_storingReads (m : MemOperand) (s : State) : StoringReads m s (resolve m s).state :=
  ⟨resolve_afterReads m s, resolve_pc m s, fun _ => resolve_status m s⟩

/-- A read-modify-write also reads its operand. -/
theorem readOperand_storingReads (m : MemOperand) (s : State) :
    StoringReads m s (readOperand (.memory m) s).2 where
  reads := readOperand_afterReads _ s
  pc := readOperand_pc (.memory m) s
  status h := by rw [readOperand_memory_status, beq_false_of_ne h, Bool.or_false]

/-! ## The forms -/

/-- From `p` to `q` at most Z, N and C change. -/
def OnlyZNC (p q : Flags) : Prop := q = { p with n := q.n, z := q.z, c := q.c }

/-- Each storing form is its reads, one bus write, and an update of P: none for a store, and one that
keeps C for INC and DEC. -/
theorem exec_storing (m : MemOperand) (s : State) {i : Instr}
    (h : i ∈ [.sta m, .stx m, .sty m, .inc m, .dec m, .asl (.memory m), .lsr (.memory m),
      .rol (.memory m), .ror (.memory m)]) :
    ∃ v u q, exec i s = .next (setFlags q (memWrite (resolve m s).ea v u)) ∧
      StoringReads m s u ∧ OnlyZNC s.p q ∧
      (i ∈ [.sta m, .stx m, .sty m] → q = s.p) ∧ (i ∈ [.inc m, .dec m] → q.c = s.p.c) := by
  have hstore (v : Byte) : writeOperand m v s =
      setFlags s.p (memWrite (resolve m s).ea v (resolve m s).state) := by
    rw [writeOperand_eq, ← (resolve_afterReads m s).p, ← memWrite_p (resolve m s).ea v]
    rfl
  have hmodify := fun f => next_congr (modifyOperand_eq f m s)
  have hresolve := resolve_storingReads m s
  have hread := readOperand_storingReads m s
  simp only [List.mem_cons, List.not_mem_nil, or_false] at h
  rcases h with rfl | rfl | rfl | rfl | rfl | rfl | rfl | rfl | rfl
  iterate 3
    · exact ⟨_, _, _, next_congr (hstore _), hresolve, rfl, fun _ => rfl, fun _ => rfl⟩
  · exact ⟨_, _, _, hmodify increment, hread, rfl, by simp, fun _ => rfl⟩
  · exact ⟨_, _, _, hmodify decrement, hread, rfl, by simp, fun _ => rfl⟩
  · exact ⟨_, _, _, hmodify shiftLeft, hread, rfl, by simp, by simp⟩
  · exact ⟨_, _, _, hmodify shiftRight, hread, rfl, by simp, by simp⟩
  · exact ⟨_, _, _, hmodify rotateLeft, hread, rfl, by simp, by simp⟩
  · exact ⟨_, _, _, hmodify rotateRight, hread, rfl, by simp, by simp⟩

/-- Settles O20: the frame of one bus write after the operand's reads, and P by the form. -/
theorem storingFrame : Obligations.StoringFrame := by
  intro m i s hi
  obtain ⟨v, u, q, hexec, ⟨hreads, hpc, hstatus⟩, hzn, hstore, hincdec⟩ := exec_storing m s hi
  refine ⟨_, hexec, ?_, hzn, hstore, hincdec, fun b hb hst => ?_, fun hea => ?_, fun hrom => ?_,
    fun h6 => ?_, fun h6 h7 => ?_, fun h7 => ?_⟩
  · rw [memWrite_afterReads _ v hreads, hpc]
    rfl
  · exact cell_memWrite_afterReads v hreads hb hst
  · have hne : ¬(ppuStatus = cellOf (resolve m s).ea ∧ region (resolve m s).ea ≠ .rom) :=
      fun h => hea h.1.symm
    rw [cell_setFlags, cell_memWrite, if_neg hne, hstatus hea]
  · exact (cell_memWrite_rom v u hrom).trans (hreads.cell (ne_ppuStatus_of_rom hrom))
  · exact (memWrite_w v u h6).trans hreads.w
  · exact (memWrite_vaddr v u h6 h7).trans hreads.vaddr
  · exact (memWrite_vram v u h7).trans hreads.vram

end Sys2Proof.Machine
end

section
/-! SUPPORT. The decoder and the encoder as inverses of each other: what the decoder gives, over the
matrix of the opcodes, and what the encoder writes, over the constructors of `Instr`. -/

namespace Sys2Proof.Machine

/-! ## The bytes of an instruction -/

theorem operandBytes_length (i : Instr) : (operandBytes i).length + 1 = i.length := by
  cases i with
  | lda o | ldx o | ldy o | ora o | and o | eor o | adc o | sbc o | cmp o | cpx o | cpy o =>
    exact readOperandBytes_length o
  | sta m | stx m | sty m | bit m | inc m | dec m => exact memOperandBytes_length m
  | asl o | lsr o | rol o | ror o => exact shiftOperandBytes_length o
  | jmp o => exact Laws.Length.jmp o
  | undoc op o => exact undocOperandBytes_length o
  | _ => rfl

theorem instr_length_le (i : Instr) : i.length ≤ 3 := by
  unfold Instr.length
  cases i.mode <;> decide

theorem operandBytes_length_le (i : Instr) : (operandBytes i).length ≤ 2 := by
  have hlen := operandBytes_length i
  have hle := instr_length_le i
  omega

/-- An encoding is an opcode and the operand bytes. -/
theorem encode_eq_some {i : Instr} {bytes : List Byte} :
    encode i = some bytes ↔ ∃ op, opcode i = some op ∧ op :: operandBytes i = bytes :=
  Option.map_eq_some_iff

theorem length_encode {i : Instr} {bytes : List Byte} (h : encode i = some bytes) :
    bytes.length = i.length := by
  obtain ⟨op, -, rfl⟩ := encode_eq_some.mp h
  exact operandBytes_length i

open Laws.Opcode in
/-- The check accepts exactly the terms an opcode stands for. -/
theorem wellFormed_iff (i : Instr) : i.WellFormed ↔ ∃ op, opcode i = some op :=
  have h : Statement i := i.casesOn
    lda ldx ldy sta stx sty tax tay txa tya tsx txs ora and eor adc sbc cmp cpx cpy bit inc dec inx
    iny dex dey asl lsr rol ror bpl bmi bvc bvs bcc bcs bne beq jmp jsr rts brk rti pha php pla plp
    clc sec cli sei clv cld sed nop undoc
  h.trans Option.isSome_iff_exists

/-! ## Every opcode -/

/-- The 256 opcodes as the usual matrix of 16 rows of 16, with a value for each. -/
def opcodeMatrix {α : Type} (f : Byte → α) : List (List α) :=
  (List.range 16).map fun hi => (List.range 16).map fun lo => f (BitVec.ofNat 8 (16 * hi + lo))

/-- Two functions with the same matrix agree on every opcode. -/
theorem eq_of_opcodeMatrix_eq {α : Type} {f g : Byte → α} (h : opcodeMatrix f = opcodeMatrix g)
    (op : Byte) : f op = g op := by
  have hop : BitVec.ofNat 8 (16 * (op.toNat / 16) + op.toNat % 16) = op := by
    rw [Nat.div_add_mod, BitVec.ofNat_toNat, BitVec.setWidth_eq]
  have hrow := List.map_inj_left.mp h (op.toNat / 16) (List.mem_range.mpr (by omega))
  have hcell := List.map_inj_left.mp hrow (op.toNat % 16) (List.mem_range.mpr (by omega))
  rwa [hop] at hcell

/-- The first bytes of an instruction, a two-byte operand taken from the word the decoder assembles:
in this form the matrix of encodings evaluates whatever the operand bytes are. -/
def instrBytes (op b1 b2 : Byte) : Nat → List Byte
  | 0 => []
  | 1 => [op]
  | 2 => [op, b1]
  | _ => op :: wordBytes (word b2 b1)

theorem instrBytes_eq_take (op b1 b2 : Byte) (n : Nat) :
    instrBytes op b1 b2 n = [op, b1, b2].take n :=
  match n with
  | 0 | 1 | 2 => rfl
  | n + 3 => by simp [instrBytes, wordBytes]

/-- Every cell of the matrix: the opcode comes back, with as many operand bytes as the opcode alone
fixes (30_encoding.md R91). -/
theorem encode_decodeOp (op b1 b2 : Byte) :
    encode (decodeOp op b1 b2) = some ([op, b1, b2].take (decodeOp op 0 0).length) := by
  rw [← instrBytes_eq_take]
  exact eq_of_opcodeMatrix_eq (f := fun op => encode (decodeOp op b1 b2))
    (g := fun op => some (instrBytes op b1 b2 (decodeOp op 0 0).length)) rfl op

theorem length_decodeOp (op b1 b2 : Byte) :
    (decodeOp op b1 b2).length = (decodeOp op 0 0).length := by
  rw [← length_encode (encode_decodeOp op b1 b2), List.length_take]
  exact Nat.min_eq_left (instr_length_le _)

/-- What the decoder gives has the opcode, and its operand bytes are the first of those after it. -/
theorem decodeOp_reads (op b1 b2 : Byte) :
    opcode (decodeOp op b1 b2) = some op ∧ operandBytes (decodeOp op b1 b2) <+: [b1, b2] := by
  obtain ⟨op', hop, hbytes⟩ := encode_eq_some.mp (encode_decodeOp op b1 b2)
  have hcons : op' :: operandBytes (decodeOp op b1 b2) <+: [op, b1, b2] :=
    hbytes ▸ List.take_prefix ..
  obtain ⟨rfl, hoperand⟩ := List.cons_prefix_cons.mp hcons
  exact ⟨hop, hoperand⟩

theorem wellFormed_decodeOp (op b1 b2 : Byte) : (decodeOp op b1 b2).WellFormed :=
  (wellFormed_iff _).mpr ⟨op, (decodeOp_reads op b1 b2).1⟩

/-! ## Operands by their bytes -/

theorem byte_of_prefix {b b1 b2 : Byte} (h : [b] <+: [b1, b2]) : b1 = b :=
  (List.cons_prefix_cons.mp h).1.symm

theorem word_of_prefix {a : Word} {b1 b2 : Byte} (h : wordBytes a <+: [b1, b2]) :
    word b2 b1 = a := by
  simp only [wordBytes, List.cons_prefix_cons, List.nil_prefix, and_true] at h
  obtain ⟨rfl, rfl⟩ := h
  exact word_hiByte_loByte a

/-- The operand of the same mode made of other bytes. -/
def refill (b1 b2 : Byte) : MemOperand → MemOperand
  | .zeroPage _ => .zeroPage b1
  | .zeroPageX _ => .zeroPageX b1
  | .zeroPageY _ => .zeroPageY b1
  | .absolute _ => .absolute (word b2 b1)
  | .absoluteX _ => .absoluteX (word b2 b1)
  | .absoluteY _ => .absoluteY (word b2 b1)
  | .indexedIndirect _ => .indexedIndirect b1
  | .indirectIndexed _ => .indirectIndexed b1

/-- An operand is its mode made of its own bytes. -/
theorem refill_of_prefix {m : MemOperand} {b1 b2 : Byte} (h : memOperandBytes m <+: [b1, b2]) :
    refill b1 b2 m = m := by
  cases m with
  | zeroPage b | zeroPageX b | zeroPageY b | indexedIndirect b | indirectIndexed b =>
    rw [refill, byte_of_prefix h]
  | absolute a | absoluteX a | absoluteY a => rw [refill, word_of_prefix h]

/-- The decoder gives an undocumented opcode the operand that has its mode and its bytes. -/
theorem undocOperand_of_prefix {op b1 b2 : Byte} {o : UndocOperand} (hmode : o.mode = undocMode op)
    (h : undocOperandBytes o <+: [b1, b2]) : undocOperand op b1 b2 = o := by
  unfold undocOperand
  rw [← hmode]
  cases o with
  | implied => rfl
  | immediate b => exact congrArg _ (byte_of_prefix h)
  | memory m =>
    rw [← refill_of_prefix h]
    cases m <;> rfl

/-! ## Decoding what was encoded -/

/-- A documented term with an opcode is what the opcode and the term's operand bytes decode to, and
the opcode is not one of R99's. -/
theorem map_opcode_documented {i : Instr} (hdoc : ∀ op o, i ≠ .undoc op o) {b1 b2 : Byte}
    (h : operandBytes i <+: [b1, b2]) :
    (opcode i).map (fun op => (isUndocumented op, decodeOp op b1 b2)) =
      (opcode i).map fun _ => (false, i) := by
  cases i with
  | lda o | ldx o | ldy o | ora o | and o | eor o | adc o | sbc o | cmp o | cpx o | cpy o =>
    cases o with
    | immediate b =>
      obtain rfl := byte_of_prefix h
      rfl
    | memory m =>
      rw [← refill_of_prefix h]
      cases m <;> rfl
  | sta m | stx m | sty m | bit m | inc m | dec m =>
    rw [← refill_of_prefix h]
    cases m <;> rfl
  | asl o | lsr o | rol o | ror o =>
    cases o with
    | accumulator => rfl
    | memory m =>
      rw [← refill_of_prefix h]
      cases m <;> rfl
  | bpl d | bmi d | bvc d | bvs d | bcc d | bcs d | bne d | beq d =>
    obtain rfl := byte_of_prefix h
    rfl
  | jmp o =>
    cases o with
    | absolute a | indirect a =>
      obtain rfl := word_of_prefix h
      rfl
  | jsr a =>
    obtain rfl := word_of_prefix h
    rfl
  | undoc op o => exact absurd rfl (hdoc op o)
  | _ => rfl

theorem decodeOp_documented {i : Instr} (hdoc : ∀ op o, i ≠ .undoc op o) {op b1 b2 : Byte}
    (hop : opcode i = some op) (h : operandBytes i <+: [b1, b2]) :
    isUndocumented op = false ∧ decodeOp op b1 b2 = i := by
  have hmap := map_opcode_documented hdoc h
  rw [hop] at hmap
  exact Prod.mk.inj (Option.some.inj hmap)

theorem opcode_undoc_eq_some {op op' : Byte} {o : UndocOperand} :
    opcode (.undoc op o) = some op' ↔
      isUndocumented op = true ∧ o.mode = undocMode op ∧ op = op' := by
  simp [opcode, and_assoc]

/-- R99's opcodes decode as undocumented: every other term has another opcode. -/
theorem decodeOp_undocumented {op : Byte} (h : isUndocumented op = true) (b1 b2 : Byte) :
    decodeOp op b1 b2 = .undoc op (undocOperand op b1 b2) := by
  obtain ⟨hop, hbytes⟩ := decodeOp_reads op b1 b2
  by_cases hdoc : ∀ op' o, decodeOp op b1 b2 ≠ .undoc op' o
  · have hfalse := (decodeOp_documented hdoc hop hbytes).1
    exact absurd h (Bool.eq_false_iff.mp hfalse)
  · push Not at hdoc
    obtain ⟨op', o, ho⟩ := hdoc
    rw [ho] at hop hbytes ⊢
    obtain ⟨-, hmode, rfl⟩ := opcode_undoc_eq_some.mp hop
    rw [undocOperand_of_prefix hmode hbytes]

/-- The decoder gives the one term that has the opcode and the operand bytes. -/
theorem decodeOp_of_opcode {i : Instr} {op b1 b2 : Byte} (hop : opcode i = some op)
    (h : operandBytes i <+: [b1, b2]) : decodeOp op b1 b2 = i := by
  by_cases hdoc : ∀ op' o, i ≠ .undoc op' o
  · exact (decodeOp_documented hdoc hop h).2
  · push Not at hdoc
    obtain ⟨op', o, rfl⟩ := hdoc
    obtain ⟨hundoc, hmode, rfl⟩ := opcode_undoc_eq_some.mp hop
    rw [decodeOp_undocumented hundoc, undocOperand_of_prefix hmode h]

/-! ## The statements about the encoding -/

/-- The decoder looks at the two bytes after the opcode, or at 0 where there is none. -/
theorem isPrefix_lookahead {bytes : List Byte} (rest : List Byte) (h : bytes.length ≤ 2) :
    bytes <+: [(bytes ++ rest).headD 0, (bytes ++ rest).tail.headD 0] :=
  match bytes with
  | [] => List.nil_prefix
  | [_] | [_, _] => ⟨_, rfl⟩

/-- The decoder drops the bytes of the instruction it reads, and no more. -/
theorem decode_cons_append {op : Byte} {bytes rest : List Byte} {i : Instr}
    (hlen : bytes.length + 1 = i.length)
    (h : decodeOp op ((bytes ++ rest).headD 0) ((bytes ++ rest).tail.headD 0) = i) :
    decode (op :: (bytes ++ rest)) = .ok (i, rest) := by
  have henough : ¬(bytes ++ rest).length + 1 < i.length := by
    rw [List.length_append]
    omega
  have hdrop : (bytes ++ rest).drop (i.length - 1) = rest := List.drop_left' (by omega)
  simp only [decode, h, if_neg henough, hdrop]

/-- Settles O1: an opcode and the operand bytes after it decode to the one term that has them. -/
theorem decodeOfEncode : Obligations.DecodeOfEncode := by
  intro i rest hwf
  obtain ⟨op, hop⟩ := (wellFormed_iff i).mp hwf
  have hencode := encode_eq_some.mpr ⟨op, hop, rfl⟩
  have hdecode := decodeOp_of_opcode hop (isPrefix_lookahead rest (operandBytes_length_le i))
  exact ⟨_, hencode, length_encode hencode, decode_cons_append (operandBytes_length i) hdecode⟩

/-- Settles O2: the encoding by the matrix, the length and the check by the encoding; an `undoc`
term has an opcode of R99's list, and those decode to one. -/
theorem encodeOfDecode : Obligations.EncodeOfDecode := by
  refine ⟨fun op b1 b2 => ?_, rfl⟩
  have hlen := length_decodeOp op b1 b2
  refine ⟨wellFormed_decodeOp op b1 b2, hlen ▸ encode_decodeOp op b1 b2, hlen,
    fun h => ⟨_, decodeOp_undocumented h b1 b2⟩, fun ⟨o, ho⟩ => ?_⟩
  have hop := (decodeOp_reads op b1 b2).1
  rw [ho] at hop
  exact (opcode_undoc_eq_some.mp hop).1

/-- Settles O4, word by word. -/
theorem opcodeWords : Obligations.OpcodeWords :=
  ⟨rfl, rfl, rfl, rfl, rfl, rfl, rfl, rfl, rfl, rfl, rfl, rfl, rfl, rfl, rfl, rfl, rfl⟩

/-- The eight opcodes of R94's test: BPL, BVC, BCC, BNE with bit 5 clear, then the others. -/
theorem branch_opcodes : ∀ op : Byte, op &&& 0x1F = 0x10 →
    op ∈ ([0x10, 0x50, 0x90, 0xD0, 0x30, 0x70, 0xB0, 0xF0] : List Byte) := by decide

/-- Settles O3: the first four opcodes compare their flag with 0, the others with 1. -/
theorem branchOpcodeFields : Obligations.BranchOpcodeFields := by
  intro op d b2 p h
  have hop := branch_opcodes op h
  simp only [List.mem_cons, List.not_mem_nil, or_false] at hop
  rcases hop with rfl | rfl | rfl | rfl | rfl | rfl | rfl | rfl
  iterate 4
    · exact ⟨(beq_false _).symm, rfl, rfl⟩
  iterate 4
    · exact ⟨(beq_true _).symm, rfl, rfl⟩

/-- An undocumented opcode's mode and count are functions of the opcode. -/
theorem mode_cycles_undocumented {op : Byte} (h : isUndocumented op = true) (b1 b2 : Byte) :
    (decodeOp op b1 b2).mode = undocMode op ∧ baseCycles (decodeOp op b1 b2) = undocCycles op := by
  have hop := (decodeOp_reads op b1 b2).1
  rw [decodeOp_undocumented h] at hop ⊢
  exact ⟨(opcode_undoc_eq_some.mp hop).2.1, rfl⟩

/-- Settles O60: a row holds whatever the operand bytes, and the rest is R224's table. -/
theorem undocumentedCycleTable : Obligations.UndocumentedCycleTable := by
  intro b1 b2
  have hrow : ∀ n ∈ (List.range 256).filter fun n => isUndocumented (BitVec.ofNat 8 n),
      (n, (decodeOp (BitVec.ofNat 8 n) b1 b2).mode,
          baseCycles (decodeOp (BitVec.ofNat 8 n) b1 b2)) =
        (n, undocMode (BitVec.ofNat 8 n), undocCycles (BitVec.ofNat 8 n)) := by
    intro n hn
    obtain ⟨hmode, hcycles⟩ := mode_cycles_undocumented (List.mem_filter.mp hn).2 b1 b2
    rw [hmode, hcycles]
  exact (List.map_congr_left hrow).trans rfl

/-! ## The statements about the step -/

/-- Settles O7: `step` looks at `faulted` first. -/
theorem faultedMakesNoStep : Obligations.FaultedMakesNoStep := fun _ => step_of_faulted

/-- Settles O5: FETCH and DECODE give the instruction of the bytes at PC, every instruction
completes, and the bookkeeping is the ticks and the total. -/
theorem stepRunsDecodedInstruction : Obligations.StepRunsDecodedInstruction := by
  intro s i rest hf h
  obtain ⟨t, hexec, -⟩ := exec_frame i (fetched1 s)
  have hwf : i.WellFormed := decode_three h ▸ wellFormed_decodeOp ..
  refine ⟨hwf, fetched1_pc s, fetched1_afterReads s, t, hexec, ?_⟩
  rw [step, hf, fetchInstr_eq h]
  simp only [runInstr, hexec, finishStep, accountCycles_eq]
  rfl

end Sys2Proof.Machine
end

section
/-! SUPPORT. Addresses: the pages they lie in, the pointers of the two indirect modes and of JMP, and
where the branches, JMP and the undocumented opcodes leave PC. -/

namespace Sys2Proof.Machine

/-! ## Pages -/

theorem hiByte_toNat (a : Word) : (hiByte a).toNat = a.toNat / 256 := by
  rw [hiByte, BitVec.extractLsb'_toNat, Nat.shiftRight_eq_div_pow]
  omega

/-- A page is 256 addresses (00_scope.md R18). -/
theorem samePage_iff (a b : Word) : samePage a b = true ↔ a.toNat / 256 = b.toNat / 256 := by
  rw [samePage, beq_iff_eq, ← BitVec.toNat_inj, hiByte_toNat, hiByte_toNat]

/-- An indexed mode crosses a page when base and sum lie in different ones (40_addressing.md R127). -/
theorem crossed_iff (base ea : Word) :
    (!samePage base ea) = true ↔ base.toNat / 256 ≠ ea.toNat / 256 := by
  rw [Bool.not_eq_true', ← Bool.not_eq_true, samePage_iff]

/-- The bounds of the regions are page bounds (20_memory.md R51). -/
theorem region_eq_of_samePage {a b : Word} (h : samePage a b = true) : region a = region b := by
  have hpage := (samePage_iff a b).mp h
  have hwindow : (0x2000 ≤ a.toNat ∧ a.toNat ≤ 0x3FFF) ↔ 0x2000 ≤ b.toNat ∧ b.toNat ≤ 0x3FFF := by
    omega
  have hrom : 0x8000 ≤ a.toNat ↔ 0x8000 ≤ b.toNat := by omega
  simp only [region, hwindow, hrom]

/-! ## Pointers in the zero page -/

/-- The word at a zero-page address and the address after it, which wraps within the page
(20_memory.md R64, 40_addressing.md R129). -/
def zeroPagePointer (z : Byte) (s : State) : Word :=
  word (cell s (zext16 (z + 1))) (cell s (zext16 z))

/-- The operand's fetch leaves the pointer as it was, and its reads have no effect. -/
theorem readPair_zeroPagePointer (z : Byte) (s : State) :
    readPair (zext16 z) (zext16 (z + 1)) (fetched1 s) = (zeroPagePointer z s, fetched1 s) := by
  rw [readPair_zeroPage, cell_fetched1_zeroPage, cell_fetched1_zeroPage, zeroPagePointer]

theorem resolve_indexedIndirect (b : Byte) (s : State) :
    resolve (.indexedIndirect b) s = ⟨zeroPagePointer (b + s.x) s, false, fetched1 s⟩ := by
  simp only [resolve, resolveIndexedIndirect, readPair_zeroPagePointer]

theorem resolve_indirectIndexed (b : Byte) (s : State) :
    resolve (.indirectIndexed b) s =
      ⟨zeroPagePointer b s + zext16 s.y,
        !samePage (zeroPagePointer b s) (zeroPagePointer b s + zext16 s.y), fetched1 s⟩ := by
  simp only [resolve, resolveIndirectIndexed, readPair_zeroPagePointer]

/-- Only abs,X, abs,Y and (zp),Y can cross a page. -/
theorem resolve_not_crossed {m : MemOperand} (s : State)
    (h : m.mode ∉ [.absoluteX, .absoluteY, .indirectIndexed]) : (resolve m s).crossed = false := by
  cases m with
  | zeroPage b | zeroPageX b | zeroPageY b | absolute a => rfl
  | indexedIndirect b => rw [resolve_indexedIndirect]
  | absoluteX a | absoluteY a | indirectIndexed b => exact absurd (by simp [MemOperand.mode]) h

/-- Settles O15: the direct modes by their definitions, the indirect ones by the pointer in the zero
page, and the crossing by the pages of base and sum. -/
theorem effectiveAddresses : Obligations.EffectiveAddresses := by
  intro b a s
  refine ⟨rfl, rfl, rfl, rfl, rfl, rfl, ?_, ?_, crossed_iff .., crossed_iff .., ?_,
    fun m => resolve_not_crossed s⟩
  · rw [resolve_indexedIndirect]
    rfl
  · rw [resolve_indirectIndexed]
    rfl
  · rw [resolve_indirectIndexed]
    exact crossed_iff ..

/-! ## Branches -/

/-- Settles O30: each branch is the common rule with its flag. -/
theorem branchesResult : Obligations.BranchesResult := by
  intro d s
  have hbranch (taken : Bool) := next_congr (branch_eq taken d s)
  have hstatus : cell (fetched1 s) ppuStatus = statusAfter (operandInStatus .relative s) s := by
    rw [fetched1_status, operandInStatus_one s rfl]
  exact ⟨fetched1_afterReads s, hstatus, hbranch _, hbranch _,
    hbranch _, hbranch _, hbranch _, hbranch _, hbranch _, hbranch _⟩

/-! ## JMP -/

/-- The pointer's second byte lies in the pointer's page (R132). -/
theorem samePage_nextInPage (p : Word) : samePage p (nextInPage p) = true := by
  simp [samePage, nextInPage]

theorem region_nextInPage (p : Word) : region (nextInPage p) = region p :=
  (region_eq_of_samePage (samePage_nextInPage p)).symm

/-- The low byte of an address, as a mask. -/
theorem setWidth_loByte (a : Word) : (loByte a).setWidth 16 = a &&& 0x00FF := by
  rw [setWidth_eq_word, word_loByte_eq]
  simp

theorem loByte_add_one (a : Word) : loByte (a + 1) = loByte a + 1 :=
  BitVec.setWidth_add a 1 (by decide)

/-- The low byte alone is incremented, as masks (R132). -/
theorem nextInPage_eq (p : Word) : nextInPage p = (p &&& 0xFF00) ||| ((p + 1) &&& 0x00FF) := by
  rw [nextInPage, word_hiByte_eq, ← loByte_add_one, setWidth_loByte]

/-- A pair outside the window is read from its cells, with no effect (20_memory.md R54). -/
theorem readPair_outside {a b : Word} (s : State) (ha : region a ≠ .ppuReg)
    (hb : region b ≠ .ppuReg) : readPair a b s = (word (cell s b) (cell s a), s) := by
  simp only [readPair, memRead_outside _ ha, memRead_outside _ hb]

/-- Operand fetches leave the cells outside the window as they were. -/
theorem cell_fetched2_outside {a : Word} (s : State) (h : region a ≠ .ppuReg) :
    cell (fetched2 s) a = cell s a :=
  (fetched2_afterReads s).cell fun ha => h (ha ▸ region_ppuStatus)

/-- A pointer outside the window: its second byte is in its page, so outside too. -/
theorem resolveJump_indirect_outside {p : Word} (s : State) (h : region p ≠ .ppuReg) :
    resolveJump (.indirect p) s =
      ⟨word (cell s (nextInPage p)) (cell s p), false, fetched2 s⟩ := by
  have hnext : region (nextInPage p) ≠ .ppuReg := region_nextInPage p ▸ h
  simp only [resolveJump, readPair_outside _ h hnext, cell_fetched2_outside s h,
    cell_fetched2_outside s hnext]

/-- Settles O31: the masks give the model's second address, and outside the window the two reads are
those cells. -/
theorem jumpsResult : Obligations.JumpsResult := by
  intro a s
  rw [← nextInPage_eq]
  refine ⟨fetched2_afterReads s, fetched2_status s, rfl, rfl, fun h => next_congr ?_⟩
  rw [jumpTo_eq, resolveJump_indirect_outside s h]
  rfl

/-! ## Undocumented opcodes -/

/-- With no memory operand the operand bytes are passed over unread (R122, log entry 6). -/
theorem passOperand_unread {o : UndocOperand} (s : State) (h : ∀ m, o ≠ .memory m) :
    passOperand o s = setPC (s.pc + operandSpan o.mode) s := by
  rw [← passOperand_pc]
  cases o with
  | implied | immediate b => rfl
  | memory m => exact absurd rfl (h m)

/-- Settles O42: under `nop` the instruction is the passing of its operand. -/
theorem undocNopResult : Obligations.UndocNopResult := fun op o s hnop =>
  ⟨passOperand o s, exec_undoc_nop op o s hnop, passOperand_afterReads o s, passOperand_pc o s,
    fun m hm => hm ▸ passOperand_memory m s, passOperand_unread s⟩

end Sys2Proof.Machine
end

section
/-! SUPPORT. Loads, stores and register transfers: the equations of Laws/Meanings.lean, with the flags
of a load or a transfer read off the state it starts from. -/

namespace Sys2Proof.Machine

/-- A register write followed by `setZN` sets Z and N in the flags from before the write. -/
theorem setZN_setReg (r : Reg) (v : Byte) (s : State) :
    setZN v (setReg r v s) = setFlags (s.p.setZN v) (setReg r v s) := by
  rw [setZN, setReg_p]

/-- A load in one line, with the flags of the starting state: the operand's reading leaves P. -/
theorem load_eq_setFlags (r : Reg) (o : ReadOperand) (s : State) :
    load r o s = setFlags (s.p.setZN (readOperand o s).1)
      (setReg r (readOperand o s).1 (readOperand o s).2) := by
  rw [load_eq, setZN_setReg, (readOperand_afterReads o s).p]

/-- Settles O18: the operand's reading, and each load is the common rule with its register. -/
theorem loadsResult : Obligations.LoadsResult := by
  intro o s
  have hload (r : Reg) := next_congr (load_eq_setFlags r o s)
  exact ⟨readOperand_afterReads o s, readOperand_pc o s, hload .a, hload .x, hload .y⟩

/-- Settles O19: each store is the common write access with its register. -/
theorem storesResult : Obligations.StoresResult := by
  intro m s
  have hstore (v : Byte) := next_congr (writeOperand_eq m v s)
  exact ⟨hstore s.a, hstore s.x, hstore s.y⟩

/-- A transfer in one line, with the flags of the starting state. -/
theorem transfer_eq_setFlags (src dst : Reg) (s : State) :
    transfer src dst s =
      setFlags (s.p.setZN (getReg src s)) (setReg dst (getReg src s) s) :=
  setZN_setReg dst (getReg src s) s

/-- Settles O21: five transfers are the common rule with their registers, and TXS is the write of SP
alone. -/
theorem transfersResult : Obligations.TransfersResult := by
  intro s
  have htransfer (src dst : Reg) := next_congr (transfer_eq_setFlags src dst s)
  have htxs : exec .txs s = .next (setReg .sp s.x s) := rfl
  exact ⟨htransfer .a .x, htransfer .a .y, htransfer .x .a, htransfer .y .a, htransfer .sp .x, htxs⟩

end Sys2Proof.Machine
end

section
/-! SUPPORT. The ALU (42_alu.md): sums and differences as integers, shifts bit by bit, and the results
of the instructions built on them, through the equations of Laws/Meanings.lean. -/

namespace Sys2Proof.Machine

/-! ## Sums and differences -/

/-- The sum does not lose anything: the bits past the eighth are the carry (R164). -/
theorem addWithCarry_sum (a m : Byte) (c : Bool) :
    a.toNat + m.toNat + c.toNat =
      256 * (addWithCarry a m c).carry.toNat + (addWithCarry a m c).value.toNat := by
  have hc := c.toNat_le
  rw [addWithCarry, BitVec.toNat_ofNat]
  by_cases hcarry : a.toNat + m.toNat + c.toNat > 0xFF
  · rw [decide_eq_true hcarry, Bool.toNat_true]
    omega
  · rw [decide_eq_false hcarry, Bool.toNat_false]
    omega

/-- The mask 0x80 selects the sign. -/
theorem and_signMask_ne_zero (x : Byte) : (x &&& 0x80 != 0) = x.msb := by
  revert x
  decide

/-- V is set when both operands have the sign that the result has not. -/
theorem addWithCarry_overflow (a m : Byte) (c : Bool) :
    (addWithCarry a m c).overflow =
      ((a.msb ^^ (addWithCarry a m c).value.msb) && (m.msb ^^ (addWithCarry a m c).value.msb)) := by
  rw [← BitVec.msb_xor, ← BitVec.msb_xor, ← BitVec.msb_and]
  exact and_signMask_ne_zero _

/-- V is set exactly when the signed sum does not fit (R164). -/
theorem addWithCarry_overflow_iff (a m : Byte) (c : Bool) :
    (addWithCarry a m c).overflow = true ↔
      a.toInt + m.toInt + c.toNat < -128 ∨ 127 < a.toInt + m.toInt + c.toNat := by
  have hsum := addWithCarry_sum a m c
  have hc := c.toNat_le
  have hcarry := (addWithCarry a m c).carry.toNat_le
  have hvalue := (addWithCarry a m c).value.isLt
  simp only [addWithCarry_overflow, BitVec.msb_eq_decide, BitVec.toInt_eq_toNat_cond,
    Bool.and_eq_true, Bool.xor_iff_ne, ne_eq, decide_eq_decide]
  omega

/-- At a bit where `a` and `r` differ, `a` and `m` differ exactly when the complement of `m` and `r`
do: the overflow mask of SBC is that of the sum with the complement. -/
theorem borrowMask_eq (a m r : Byte) : (a ^^^ m) &&& (a ^^^ r) = (a ^^^ r) &&& (~~~m ^^^ r) := by
  ext k hk
  simp only [BitVec.getElem_and, BitVec.getElem_xor, BitVec.getElem_not]
  cases a[k] <;> cases m[k] <;> cases r[k] <;> rfl

/-- A difference is the sum with the complement (R165). -/
theorem subWithBorrow_eq (a m : Byte) (c : Bool) : subWithBorrow a m c = addWithCarry a (~~~m) c := by
  have hnot : m ^^^ 0xFF = ~~~m := BitVec.xor_allOnes
  simp only [subWithBorrow, addWithCarry, hnot, borrowMask_eq]

/-- The complement of `m` stands for `255 - m`, so what the carry lacks is the borrow. -/
theorem subWithBorrow_difference (a m : Byte) (c : Bool) :
    (a.toNat : Int) - m.toNat - (1 - c.toNat) =
      (subWithBorrow a m c).value.toNat - 256 * (1 - (subWithBorrow a m c).carry.toNat) := by
  have hsum := addWithCarry_sum a (~~~m) c
  rw [← subWithBorrow_eq, BitVec.toNat_not] at hsum
  have hm := m.isLt
  omega

/-- V is set exactly when the signed difference does not fit (R165). -/
theorem subWithBorrow_overflow_iff (a m : Byte) (c : Bool) :
    (subWithBorrow a m c).overflow = true ↔
      a.toInt - m.toInt - (1 - c.toNat) < -128 ∨ 127 < a.toInt - m.toInt - (1 - c.toNat) := by
  have hsigned : a.toInt - m.toInt - (1 - c.toNat) = a.toInt + (~~~m).toInt + c.toNat := by
    have hm := m.isLt
    simp only [BitVec.toInt_eq_toNat_cond m, BitVec.toInt_eq_toNat_cond (~~~m), BitVec.toNat_not]
    omega
  rw [subWithBorrow_eq, addWithCarry_overflow_iff, hsigned]

/-- Settles O23: the common rule of the arithmetic with the sum's two facts. -/
theorem adcResult : Obligations.AdcResult := fun o s =>
  ⟨readOperand_afterReads o s, readOperand_pc o s, _, _, _, next_congr (arith_eq addWithCarry o s),
    addWithCarry_sum .., addWithCarry_overflow_iff ..⟩

/-- Settles O24: the common rule of the arithmetic with the difference's two facts. -/
theorem sbcResult : Obligations.SbcResult := fun o s =>
  ⟨readOperand_afterReads o s, readOperand_pc o s, _, _, _, next_congr (arith_eq subWithBorrow o s),
    subWithBorrow_difference .., subWithBorrow_overflow_iff ..⟩

/-! ## Logic, compares, BIT -/

/-- A logic operation in one line, with the flags of the starting state. -/
theorem logic_eq_setFlags (f : Byte → Byte → Byte) (o : ReadOperand) (s : State) :
    logic f o s = setFlags (s.p.setZN (f s.a (readOperand o s).1))
      (setReg .a (f s.a (readOperand o s).1) (readOperand o s).2) := by
  rw [logic_eq, setZN_setReg, (readOperand_afterReads o s).p]

/-- Settles O22: the operand's reading, and each instruction is the common rule with its bitwise
operation. -/
theorem logicResult : Obligations.LogicResult := by
  intro o s
  have hlogic (f : Byte → Byte → Byte) := next_congr (logic_eq_setFlags f o s)
  exact ⟨readOperand_afterReads o s, readOperand_pc o s, hlogic _, hlogic _, hlogic _⟩

/-- Settles O25: the operand's reading, and each compare is the common rule with its register. -/
theorem comparesResult : Obligations.ComparesResult := by
  intro o s
  have hcompare (r : Reg) := next_congr (compareReg_eq r o s)
  exact ⟨readOperand_afterReads o s, readOperand_pc o s, hcompare .a, hcompare .x, hcompare .y⟩

/-- Settles O26: the operand's reading, then the flags of the bit test. -/
theorem bitTestResult : Obligations.BitTestResult := fun m s =>
  ⟨readOperand_afterReads _ s, readOperand_pc _ s, next_congr (bitTest_eq m s)⟩

/-! ## Increments and decrements -/

/-- Settles O27: both are the common read-modify-write access. -/
theorem memoryIncrementResult : Obligations.MemoryIncrementResult := by
  intro m s
  have hmodify (f : Byte → Flags → Byte × Flags) := next_congr (modifyOperand_eq f m s)
  exact ⟨hmodify increment, hmodify decrement⟩

/-- Settles O28: all four are the common register rule. -/
theorem registerIncrementResult : Obligations.RegisterIncrementResult := by
  intro s
  have hmodify (f : Byte → Flags → Byte × Flags) (r : Reg) := next_congr (modifyReg_eq f r s)
  exact ⟨hmodify increment .x, hmodify increment .y, hmodify decrement .x, hmodify decrement .y⟩

/-! ## Shifts and rotates -/

/-- The old carry in bit 0. -/
theorem getLsbD_carry (c : Bool) {k : Nat} (hk : k < 8) :
    ((BitVec.ofBool c).setWidth 8 : Byte).getLsbD k = (decide (k = 0) && c) := by
  rw [BitVec.getLsbD_setWidth, BitVec.getLsbD_ofBool, decide_eq_true hk, Bool.true_and]

theorem getLsbD_shiftLeft_fst (v : Byte) (p : Flags) {k : Nat} (hk : k < 8) :
    (shiftLeft v p).1.getLsbD k = if k = 0 then false else v.getLsbD (k - 1) := by
  rw [shiftLeft, BitVec.getLsbD_shiftLeft]
  by_cases h : k = 0
  · simp [h]
  · have hk1 : ¬ k < 1 := by omega
    simp [h, hk, hk1]

theorem getLsbD_rotateLeft_fst (v : Byte) (p : Flags) {k : Nat} (hk : k < 8) :
    (rotateLeft v p).1.getLsbD k = if k = 0 then p.c else v.getLsbD (k - 1) := by
  have hor : (rotateLeft v p).1 = (shiftLeft v p).1 ||| (BitVec.ofBool p.c).setWidth 8 := rfl
  rw [hor, BitVec.getLsbD_or, getLsbD_shiftLeft_fst v p hk, getLsbD_carry p.c hk]
  by_cases h : k = 0 <;> simp [h]

theorem getLsbD_shiftRight_fst (v : Byte) (p : Flags) (k : Nat) :
    (shiftRight v p).1.getLsbD k = if k = 7 then false else v.getLsbD (k + 1) := by
  rw [shiftRight, BitVec.getLsbD_ushiftRight, Nat.add_comm]
  by_cases h : k = 7 <;> simp [h]

theorem getLsbD_rotateRight_fst (v : Byte) (p : Flags) {k : Nat} (hk : k < 8) :
    (rotateRight v p).1.getLsbD k = if k = 7 then p.c else v.getLsbD (k + 1) := by
  have hor : (rotateRight v p).1 = (shiftRight v p).1 ||| (BitVec.ofBool p.c).setWidth 8 <<< 7 := rfl
  rw [hor, BitVec.getLsbD_or, getLsbD_shiftRight_fst v p k, BitVec.getLsbD_shiftLeft,
    getLsbD_carry p.c (by omega)]
  by_cases h : k = 7
  · simp [h]
  · have hk7 : k < 7 := by omega
    simp [h, hk, hk7]

/-- Settles O29: each of the four is the common register rule and the common read-modify-write access
with its operation, and the bits of its result are those of the operation's lemma. -/
theorem shiftsResult : Obligations.ShiftsResult := by
  intro m s f left rotate hf
  have hreg (g : Byte → Flags → Byte × Flags) := next_congr (modifyReg_eq g .a s)
  have hmem (g : Byte → Flags → Byte × Flags) := next_congr (modifyOperand_eq g m s)
  simp only [List.mem_cons, List.not_mem_nil, or_false, Prod.mk.injEq] at hf
  obtain ⟨rfl, rfl, rfl⟩ | ⟨rfl, rfl, rfl⟩ | ⟨rfl, rfl, rfl⟩ | ⟨rfl, rfl, rfl⟩ := hf
  · exact ⟨_, fun v _ => getLsbD_shiftLeft_fst v s.p, hreg shiftLeft, hmem shiftLeft⟩
  · exact ⟨_, fun v k _ => getLsbD_shiftRight_fst v s.p k, hreg shiftRight, hmem shiftRight⟩
  · exact ⟨_, fun v _ => getLsbD_rotateLeft_fst v s.p, hreg rotateLeft, hmem rotateLeft⟩
  · exact ⟨_, fun v _ => getLsbD_rotateRight_fst v s.p, hreg rotateRight, hmem rotateRight⟩

end Sys2Proof.Machine
end

section
/-! SUPPORT. A return right after its call (43_control.md): the pulls of RTS and RTI meet the bytes that
JSR and BRK pushed. -/

namespace Sys2Proof.Machine

/-! ## JSR, then RTS -/

/-- The two stack cells after a JSR make up the address of its last byte (R201). -/
theorem word_cell_callSubroutine (a : Word) (s : State) :
    word (cell (callSubroutine a s) (stackAddr s.sp))
      (cell (callSubroutine a s) (stackAddr (s.sp - 1))) = s.pc + 1 := by
  rw [cell_callSubroutine, cell_callSubroutine, if_neg (stackAddr_ne_sub_one s.sp), if_pos rfl,
    if_pos rfl, word_hiByte_loByte]

theorem returnSubroutine_callSubroutine (a : Word) (s : State) :
    returnSubroutine (callSubroutine a s) =
      { s with pc := s.pc + 2, mem := (callSubroutine a s).mem } := by
  have hcall := callSubroutine_rest a s
  have hword := word_cell_callSubroutine a s
  generalize callSubroutine a s = t at hcall hword ⊢
  have hsp : t.sp = s.sp - 2 := congrArg State.sp hcall
  have hlo : t.sp + 1 = s.sp - 1 := by bv_omega
  have hhi : t.sp + 2 = s.sp := by bv_omega
  have hpc : s.pc + 1 + 1 = s.pc + 2 := BitVec.add_assoc ..
  rw [returnSubroutine_eq, hlo, hhi, hword, hpc]
  conv_lhs => rw [hcall]
  rfl

/-- Settles O34: RTS pulls the word that JSR pushed, the address of the last byte of the JSR, and goes
one past it. -/
theorem rtsAfterJsrReturns : Obligations.RtsAfterJsrReturns := fun a s =>
  ⟨callSubroutine a s, _, rfl, rfl, returnSubroutine_callSubroutine a s⟩

/-! ## BRK, then RTI -/

/-- The pushed copy of P is P with B set (R203). -/
theorem ofByte_pushed_flags (p : Flags) : Flags.ofByte (p.toByte ||| 0x10) = { p with b := true } := by
  obtain ⟨n, v, b, d, i, z, c⟩ := p
  revert n v b d i z c
  decide

/-- Trap entry stores three bytes on the stack page. -/
theorem cell_enterTrap (ret : Word) (s : State) (b : Word) :
    cell (enterTrap ret s) b =
      if b = stackAddr (s.sp - 2) then s.p.toByte ||| 0x10
      else if b = stackAddr (s.sp - 1) then loByte ret
      else if b = stackAddr s.sp then hiByte ret else cell s b := by
  rw [enterTrap_eq, ← cell_setCell, ← cell_setCell, ← cell_setCell]
  rfl

/-- Trap entry changes PC, SP, P and MEM alone. -/
theorem enterTrap_rest (ret : Word) (s : State) :
    enterTrap ret s = { s with
      pc := (enterTrap ret s).pc, sp := s.sp - 3, p := { s.p with b := true, i := true },
      mem := (enterTrap ret s).mem } := by
  rw [enterTrap_eq]

/-- The frame that trap entry leaves on the stack: the return address, then P with B set. Its three
cells are different ones, also where SP wraps. -/
theorem enterTrap_frame (ret : Word) (s : State) :
    cell (enterTrap ret s) (stackAddr s.sp) = hiByte ret ∧
    cell (enterTrap ret s) (stackAddr (s.sp - 1)) = loByte ret ∧
    cell (enterTrap ret s) (stackAddr (s.sp - 2)) = s.p.toByte ||| 0x10 := by
  have h01 : stackAddr s.sp ≠ stackAddr (s.sp - 1) := stackAddr_ne_sub_one s.sp
  have h02 : stackAddr s.sp ≠ stackAddr (s.sp - 2) := stackAddr_ne (by bv_omega)
  have h12 : stackAddr (s.sp - 1) ≠ stackAddr (s.sp - 2) := stackAddr_ne (by bv_omega)
  refine ⟨?_, ?_, ?_⟩
  · rw [cell_enterTrap, if_neg h02, if_neg h01, if_pos rfl]
  · rw [cell_enterTrap, if_neg h12, if_pos rfl]
  · rw [cell_enterTrap, if_pos rfl]

theorem leaveTrap_enterTrap (ret : Word) (s : State) :
    leaveTrap (enterTrap ret s) =
      { s with pc := ret, p := { s.p with b := true }, mem := (enterTrap ret s).mem } := by
  have hrest := enterTrap_rest ret s
  obtain ⟨hhi, hlo, hflags⟩ := enterTrap_frame ret s
  generalize enterTrap ret s = t at hrest hhi hlo hflags ⊢
  have hsp : t.sp = s.sp - 3 := congrArg State.sp hrest
  have h1 : t.sp + 1 = s.sp - 2 := by bv_omega
  have h2 : t.sp + 2 = s.sp - 1 := by bv_omega
  have h3 : t.sp + 3 = s.sp := by bv_omega
  rw [leaveTrap_eq, h1, h2, h3, hhi, hlo, hflags, word_hiByte_loByte, ofByte_pushed_flags]
  conv_lhs => rw [hrest]

/-- Settles O37: RTI pulls the three bytes that BRK pushed, of which the copy of P has B set. -/
theorem rtiAfterBrkReturns : Obligations.RtiAfterBrkReturns := fun s =>
  ⟨enterTrap (s.pc - 1 + s.params.brkPcOffset.toWord) s, _, rfl, rfl, leaveTrap_enterTrap _ s⟩

end Sys2Proof.Machine
end

section
/-! SUPPORT. The flag instructions, NOP and the undocumented-opcode fault: the two state updates they
are made of, field by field. -/

namespace Sys2Proof.Machine

/-! ## Flag instructions -/

/-- A write of the flags replaces P and no other field. -/
theorem setFlags_eq (q : Flags) (s : State) : setFlags q s = { s with p := q } := rfl

/-- Settles O41: the seven are one write of the flags, each with its own new P, and NOP is none. -/
theorem flagInstructionsResult : Obligations.FlagInstructionsResult := by
  intro s
  have hflags (q : Flags) := next_congr (setFlags_eq q s)
  have hnop : exec .nop s = .next s := rfl
  exact ⟨hflags { s.p with c := false }, hflags { s.p with c := true },
    hflags { s.p with i := false }, hflags { s.p with i := true },
    hflags { s.p with v := false },
    hflags { s.p with d := false }, hflags { s.p with d := true }, hnop⟩

/-! ## The undocumented-opcode fault -/

/-- The fault writes PC and the two fault fields alone (R223). -/
theorem raiseUndoc_eq (op : Byte) (s : State) :
    raiseUndoc op s = { s with pc := s.pc - 1, faulted := true, faultReason := some op } := rfl

/-- Settles O43: under `fault` the instruction is the fault, whatever its operand. -/
theorem undocFaultResult : Obligations.UndocFaultResult := fun op o s hfault =>
  (exec_undoc_fault op o s hfault).trans (next_congr (raiseUndoc_eq op s))

end Sys2Proof.Machine
end

section
/-! SUPPORT. The trap, its return and the fault state over a step (60_exceptions.md): the equations of
Laws/Meanings.lean at the cells the statements name, and a step as an instruction with its
bookkeeping. -/

namespace Sys2Proof.Machine

/-! ## BRK and RTI -/

theorem brkPcOffset_toWord (o : BrkPcOffset) : o.toWord = if o = .one then 1 else 2 := by
  cases o <;> rfl

/-- Trap entry goes to the vector, which lies in ROM (20_memory.md R68). -/
theorem enterTrap_pc (ret : Word) (s : State) :
    (enterTrap ret s).pc = word (cell s brkVectorHi) (cell s brkVectorLo) := by
  rw [enterTrap_eq]

/-- Trap entry leaves every cell outside its frame. -/
theorem cell_enterTrap_ne (ret : Word) (s : State) {b : Word} (h0 : b ≠ stackAddr s.sp)
    (h1 : b ≠ stackAddr (s.sp - 1)) (h2 : b ≠ stackAddr (s.sp - 2)) :
    cell (enterTrap ret s) b = cell s b := by
  rw [cell_enterTrap, if_neg h2, if_neg h1, if_neg h0]

/-- Settles O35: trap entry with the address that BRK_PC_OFFSET gives, its frame on the stack and its
target. -/
theorem brkResult : Obligations.BrkResult := by
  intro s ret at'
  have hret : s.pc - 1 + s.params.brkPcOffset.toWord = ret := by rw [brkPcOffset_toWord]
  have hexec : exec .brk s = .next (enterTrap ret s) := hret ▸ rfl
  have htop : at' 0 = stackAddr s.sp := congrArg stackAddr (BitVec.sub_zero s.sp)
  have hrest := enterTrap_rest ret s
  rw [enterTrap_pc] at hrest
  obtain ⟨hhi, hlo, hflags⟩ := enterTrap_frame ret s
  rw [htop]
  exact ⟨_, hexec, hrest, hhi, hlo, hflags, fun _ => cell_enterTrap_ne ret s⟩

/-- Settles O36, by the equation of RTI. -/
theorem rtiResult : Obligations.RtiResult := fun s => next_congr (leaveTrap_eq s)

/-! ## The fault state -/

/-- The step's bookkeeping writes MEM, the counter and the total, so neither the fault nor the
parameters. -/
theorem finishStep_rest (c : Nat) (s : State) :
    finishStep c s = { s with
      mem := (finishStep c s).mem, ppuCycle := (finishStep c s).ppuCycle,
      cycleTotal := (finishStep c s).cycleTotal } := by
  unfold finishStep
  split
  · rfl
  · rw [accountCycles_eq, ppuTicks_rest]

@[simp] theorem finishStep_faulted (c : Nat) (s : State) :
    (finishStep c s).faulted = s.faulted := by rw [finishStep_rest]

@[simp] theorem finishStep_params (c : Nat) (s : State) :
    (finishStep c s).params = s.params := by rw [finishStep_rest]

/-- A step from a state that is not faulted is the instruction at PC, then its bookkeeping. -/
theorem step_of_exec {s t : State} (hf : s.faulted = false)
    (h : exec (fetchInstr s).1 (fetched1 s) = .next t) :
    step s = .next (finishStep (cycles (fetchInstr s).1 (fetched1 s)) t) := by
  have hsnd : (fetchInstr s).2 = fetched1 s := rfl
  rw [step, hf, if_neg Bool.false_ne_true, runInstr, hsnd, h]

/-- Settles O44: under `nop` every instruction completes unfaulted, and neither the opcode fetch
before it nor the bookkeeping after it touches the fault. -/
theorem faultUnreachableUnderNop : Obligations.FaultUnreachableUnderNop := by
  intro s hf hnop
  have hfetch := fetched1_afterReads s
  obtain ⟨t, hexec, hfaulted, -, hparams, -⟩ :=
    everyInstructionCompletes (fetchInstr s).1 (fetched1 s) (hfetch.params ▸ hnop)
  refine ⟨_, step_of_exec hf hexec, ?_, ?_⟩
  · rw [finishStep_faulted, hfaulted, hfetch.faulted, hf]
  · rw [finishStep_params, hparams, hfetch.params]

end Sys2Proof.Machine
end

section
/-! SUPPORT. The scanline timer over several ticks (60_exceptions.md R253 to R255): the counter, and
PPUSTATUS where the ticks are fewer than the PPU cycles of the vertical blank, so that they meet at
most one of its two ends. -/

namespace Sys2Proof.Machine

/-! ## One tick -/

/-- The counter wraps at the end of the frame, 262 × 341 PPU cycles. -/
theorem ppuTick_count (s : State) :
    (ppuTick s).ppuCycle = if s.ppuCycle + 1 = 89342 then 0 else s.ppuCycle + 1 :=
  ppuTick_ppuCycle s

/-- A tick sets vertical blank on reaching scanline 241 and clears it at the wrap. -/
theorem ppuTick_status (s : State) :
    cell (ppuTick s) ppuStatus =
      if s.ppuCycle + 1 = 82181 then cell s ppuStatus ||| 0x80
      else if s.ppuCycle + 1 = 89342 then cell s ppuStatus &&& 0x7F
      else cell s ppuStatus := by
  unfold ppuTick vblankCycle frameCycles
  by_cases hset : s.ppuCycle + 1 = 82181
  · simp only [hset]
    exact cell_setCell_self ..
  · by_cases hwrap : s.ppuCycle + 1 = 89342
    · simp only [hwrap]
      exact cell_setCell_self ..
    · simp only [hset, hwrap]
      rfl

/-! ## Several ticks -/

/-- The last tick taken off, where `ppuTicks` itself takes off the first. -/
theorem ppuTicks_succ (k : Nat) (s : State) : ppuTicks (k + 1) s = ppuTick (ppuTicks k s) := by
  induction k generalizing s with
  | zero => rfl
  | succ k ih => exact ih (ppuTick s)

theorem ppuTicks_count (k : Nat) {s : State} (hs : s.ppuCycle < 89342) :
    (ppuTicks k s).ppuCycle = (s.ppuCycle + k) % 89342 := by
  induction k with
  | zero => exact (Nat.mod_eq_of_lt hs).symm
  | succ k ih =>
    rw [ppuTicks_succ, ppuTick_count, ih]
    split <;> omega

/-- PPUSTATUS, from the byte `b`, after ticks from the count `start` to `reached`, a count taken
without the wrap. -/
def statusAfterTicks (start reached : Nat) (b : Byte) : Byte :=
  if start < 82181 ∧ 82181 ≤ reached then b ||| 0x80
  else if 89342 ≤ reached then b &&& 0x7F
  else b

theorem statusAfterTicks_start {start : Nat} (h : start < 89342) (b : Byte) :
    statusAfterTicks start start b = b := by
  have hset : ¬(start < 82181 ∧ 82181 ≤ start) := by omega
  exact (if_neg hset).trans (if_neg h.not_ge)

/-- One tick more. The ticks are too few to meet both ends of the vertical blank, so one that meets an
end finds the byte still `b`. -/
theorem statusAfterTicks_succ {start reached : Nat} (hstart : start < 89342)
    (hle : start ≤ reached) (hlt : reached + 1 < start + 7161) (b : Byte) :
    statusAfterTicks start (reached + 1) b =
      if reached % 89342 + 1 = 82181 then statusAfterTicks start reached b ||| 0x80
      else if reached % 89342 + 1 = 89342 then statusAfterTicks start reached b &&& 0x7F
      else statusAfterTicks start reached b := by
  have hset_mod : reached % 89342 + 1 = 82181 ↔ reached + 1 = 82181 := by omega
  have hwrap_mod : reached % 89342 + 1 = 89342 ↔ reached + 1 = 89342 := by omega
  simp only [hset_mod, hwrap_mod, statusAfterTicks]
  by_cases hset : reached + 1 = 82181
  · have hbefore : start < 82181 ∧ ¬82181 ≤ reached ∧ ¬89342 ≤ reached := by omega
    simp [hset, hbefore]
  · by_cases hwrap : reached + 1 = 89342
    · have hbefore : ¬start < 82181 ∧ ¬89342 ≤ reached := by omega
      simp [hwrap, hbefore]
    · have hset_succ : 82181 ≤ reached + 1 ↔ 82181 ≤ reached := by omega
      have hwrap_succ : 89342 ≤ reached + 1 ↔ 89342 ≤ reached := by omega
      simp only [hset, hwrap, hset_succ, hwrap_succ, if_false]

theorem ppuTicks_status {k : Nat} {s : State} (hs : s.ppuCycle < 89342) (hk : k < 7161) :
    cell (ppuTicks k s) ppuStatus =
      statusAfterTicks s.ppuCycle (s.ppuCycle + k) (cell s ppuStatus) := by
  induction k with
  | zero => exact (statusAfterTicks_start hs _).symm
  | succ k ih =>
    rw [ppuTicks_succ, ppuTick_status, ppuTicks_count k hs, ih (by omega), ← Nat.add_assoc,
      statusAfterTicks_succ hs (by omega) (by omega)]

/-- Settles O49: a count of at most 8 is at most 24 ticks, fewer than the PPU cycles of the vertical
blank. -/
theorem timerUpdate : Obligations.TimerUpdate := fun c s hc hs =>
  ⟨ppuTicks_rest _ s, ppuTicks_count _ hs, ppuTicks_status hs (by omega), ppuTicks_cell _ s⟩

end Sys2Proof.Machine
end

section
/-! SUPPORT. The invariants over a step (70_reset_and_hazards.md R278): the one cell write that keeps
them, then the accesses of an instruction and the ticks of the timer as such writes. -/

namespace Sys2Proof.Machine

/-! ## The cells an access can change -/

/-- The cells that bus accesses and the timer can change: storage and the eight PPU registers, so
neither ROM nor what lies behind the register window. -/
def Writable (b : Word) : Prop := b.toNat < 0x2008 ∨ 0x4000 ≤ b.toNat ∧ b.toNat < 0x8000

/-- The bus reaches no other cell for writing (20_memory.md R51, R53, R58). -/
theorem writable_cellOf {a : Word} (h : region a ≠ .rom) : Writable (cellOf a) := by
  rw [Ne, region_eq_rom_iff] at h
  unfold Writable
  by_cases hreg : region a = .ppuReg
  · rw [cellOf_ppuReg hreg, ppuRegOf_toNat]
    omega
  · rw [cellOf_outside hreg]
    rw [region_eq_ppuReg_iff] at hreg
    omega

theorem writable_ppuStatus : Writable ppuStatus := .inl (by decide)

/-! ## Updates that keep the invariants -/

namespace Sound

variable {s : State}

/-- Neither the PRG copies nor the cells behind the window are writable. -/
theorem setCell (h : Sound s) {b : Word} (hb : Writable b) (v : Byte) : Sound (setCell b v s) := by
  have hread (n : Nat) (hn : n ≠ b.toNat) :
      readCell memDefault (Machine.setCell b v s).mem n = readCell memDefault s.mem n :=
    (readCell_writeCell ..).trans (if_neg hn)
  unfold Writable at hb
  exact { h with
    memWf := setCell_wf b v s h.memWf
    romMirrored := fun i (hi : i < 0x4000) => by
      rw [hread _ (by omega), hread _ (by omega)]
      exact h.romMirrored i hi
    windowZero := fun a hlo hhi => by
      rw [hread _ (by omega)]
      exact h.windowZero a hlo hhi }

theorem setVramCell (h : Sound s) {k : Nat} (hk : k < vramBytes) (v : Byte) :
    Sound (setVramCell k v s) :=
  { h with vramWf := setVramCell_wf k v s hk h.vramWf }

theorem clearVblank (h : Sound s) : Sound (clearVblank s) := h.setCell writable_ppuStatus _

theorem setVblank (h : Sound s) : Sound (setVblank s) := h.setCell writable_ppuStatus _

theorem setPC (h : Sound s) (v : Word) : Sound (setPC v s) := { h with }

theorem setFlags (h : Sound s) (q : Flags) : Sound (setFlags q s) := { h with }

theorem setReg (h : Sound s) (r : Reg) (v : Byte) : Sound (setReg r v s) := by
  cases r <;> exact { h with }

theorem afterReads {t : State} (h : Sound s) (k : AfterReads s t) : Sound t := by
  rcases k with k | k <;> rw [k]
  · exact h.setPC _
  · exact h.clearVblank.setPC _

/-- PPUADDR and PPUDATA also write the VRAM port, and PPUDATA a VRAM cell below 0x4000. -/
theorem memWrite (h : Sound s) (a : Word) (v : Byte) : Sound (memWrite a v s) := by
  by_cases h6 : cellOf a = ppuAddr
  · rw [memWrite_ppuAddr v s h6]
    exact { h.setCell (.inl (by decide)) v with }
  · by_cases h7 : cellOf a = ppuData
    · rw [memWrite_ppuData v s h7]
      have hk : s.vaddr.toNat % vramBytes < vramBytes := Nat.mod_lt _ (by decide)
      exact { (h.setCell (.inl (by decide)) v).setVramCell hk v with }
    · rw [memWrite_plain a v s h6 h7]
      split
      · exact h
      · next hrom => exact h.setCell (writable_cellOf hrom) v

theorem accesses {writes : Bool} {t : State} (h : Sound s) (k : Accesses writes s t) : Sound t := by
  induction k with
  | reads k => exact h.afterReads k
  | pc v _ ih => exact ih.setPC v
  | flags q _ ih => exact ih.setFlags q
  | reg r v _ ih => exact ih.setReg r v
  | write a v _ _ ih => exact ih.memWrite a v

/-- The fault of an undocumented opcode comes with its reason. -/
theorem raiseUndoc (h : Sound s) (op : Byte) : Sound (raiseUndoc op s) :=
  { h with faultAgrees := rfl }

theorem exec {i : Instr} {t : State} (h : Sound s) (k : exec i s = .next t) : Sound t := by
  rcases exec_accesses i s with ⟨u, hexec, hacc⟩ | ⟨op, -, hexec⟩ <;>
    rw [hexec] at k <;> cases k
  · exact h.accesses hacc
  · exact h.raiseUndoc op

/-! ## The timer -/

theorem ppuTick (h : Sound s) : Sound (ppuTick s) := by
  have hbound (hwrap : s.ppuCycle + 1 ≠ frameCycles) : s.ppuCycle + 1 < frameCycles :=
    Nat.lt_of_le_of_ne h.ppuCycleBound hwrap
  have hset : Sound (if s.ppuCycle + 1 = vblankCycle then Machine.setVblank s else s) := by
    split
    · exact h.setVblank
    · exact h
  unfold Machine.ppuTick
  simp only []
  split
  · exact { hset.clearVblank with ppuCycleBound := Nat.zero_lt_of_lt h.ppuCycleBound }
  · next hwrap => exact { hset with ppuCycleBound := hbound hwrap }

theorem ppuTicks (h : Sound s) (k : Nat) : Sound (ppuTicks k s) := by
  induction k generalizing s with
  | zero => exact h
  | succ k ih => exact ih h.ppuTick

theorem finishStep (h : Sound s) (c : Nat) : Sound (finishStep c s) := by
  unfold Machine.finishStep
  split
  · exact h
  · rw [accountCycles_eq]
    exact { h.ppuTicks (3 * c) with }

end Sound

/-- Settles O54: the opcode fetch, the instruction and the bookkeeping each keep the invariants. -/
theorem stepKeepsSound : Obligations.StepKeepsSound := by
  intro s t hs h
  obtain ⟨i, u, hexec, rfl⟩ := exec_of_step h
  exact ((hs.afterReads (fetched1_afterReads s)).exec hexec).finishStep _

end Sys2Proof.Machine
end

section
/-! SUPPORT. RESET and the invariants (70_reset_and_hazards.md R270, R278): copies of ROM bytes are
canonical cell lists, and the values RESET leaves meet the rest. -/

namespace Sys2Proof.Machine

/-! ## ROM copies in canonical form -/

/-- A copy lists cells of its range alone, and none that an unlisted address reads as. -/
theorem mem_romCells {d : Nat → Byte} {l : List Byte} {base : Nat} {c : Host.Cell}
    (h : c ∈ romCells d base l) : (base ≤ c.1 ∧ c.1 < base + l.length) ∧ c.2 ≠ d c.1 := by
  induction l generalizing base with
  | nil => cases h
  | cons b l ih =>
    have hrest (hc : c ∈ romCells d (base + 1) l) :
        (base ≤ c.1 ∧ c.1 < base + (b :: l).length) ∧ c.2 ≠ d c.1 := by
      obtain ⟨hrange, hne⟩ := ih hc
      rw [List.length_cons]
      exact ⟨by omega, hne⟩
    unfold romCells at h
    split at h
    · exact hrest h
    · next hb =>
      rcases List.mem_cons.mp h with rfl | hc
      · exact ⟨by simp, hb⟩
      · exact hrest hc

theorem romCells_sorted (d : Nat → Byte) (l : List Byte) (base : Nat) :
    (romCells d base l).Pairwise (fun c e => c.1 < e.1) := by
  induction l generalizing base with
  | nil => exact .nil
  | cons b l ih =>
    unfold romCells
    split
    · exact ih (base + 1)
    · exact .cons (fun _ hc => (mem_romCells hc).1.1) (ih (base + 1))

theorem romCells_wf {d : Nat → Byte} {l : List Byte} {base bound : Nat}
    (h : base + l.length ≤ bound) : CellsWf d bound (romCells d base l) := by
  refine ⟨romCells_sorted d l base, fun c hc => ?_⟩
  obtain ⟨hrange, hne⟩ := mem_romCells hc
  exact ⟨by omega, hne⟩

/-- One canonical list before another of higher addresses. -/
theorem CellsWf.append {d : Nat → Byte} {bound : Nat} {m m' : Memory} (h : CellsWf d bound m)
    (h' : CellsWf d bound m') (hlt : ∀ c ∈ m, ∀ e ∈ m', c.1 < e.1) :
    CellsWf d bound (m ++ m') :=
  ⟨List.pairwise_append.mpr ⟨h.1, h'.1, hlt⟩, List.forall_mem_append.mpr ⟨h.2, h'.2⟩⟩

/-- The two PRG copies of the bus reset, at most 16 KiB each (20_memory.md R71). -/
theorem prgCopies_wf {prg : List Byte} (h : prg.length ≤ prgBytes) :
    Memory.wf (romCells memDefault 0x8000 prg ++ romCells memDefault 0xC000 prg) := by
  have hlen : prg.length ≤ 0x4000 := h
  refine (romCells_wf (by omega)).append (romCells_wf (by omega)) fun c hc e he => ?_
  have hlo := (mem_romCells hc).1
  have hhi := (mem_romCells he).1
  omega

/-! ## The state after RESET -/

theorem reset_memWf (cart : Cart) (s : State) : Memory.wf (reset cart s).mem :=
  setCell_wf _ _ _ (setCell_wf _ _ _ (prgCopies_wf (List.length_take_le ..)))

theorem reset_vramWf (cart : Cart) (s : State) : Memory.vramWf (reset cart s).vram := by
  refine romCells_wf ?_
  rw [Nat.zero_add]
  exact List.length_take_le ..

/-- Both PRG copies as the list of MEM reads. -/
theorem readCell_reset_prg {cart : Cart} (s : State) (h : accepts cart = true) {i : Nat}
    (hi : i < 0x4000) :
    readCell memDefault (reset cart s).mem (0x8000 + i) = cart.prg.getD i 0 ∧
    readCell memDefault (reset cart s).mem (0xC000 + i) = cart.prg.getD i 0 := by
  rw [readCell_eq_cell _ (by omega), readCell_eq_cell _ (by omega)]
  exact cell_reset_prg cart s h i hi

theorem holdsPrg_reset {cart : Cart} (s : State) (h : accepts cart = true) :
    HoldsPrg cart.prg (reset cart s) := by
  intro i hlen hi
  rw [← List.getD_eq_getElem _ 0 hlen]
  exact readCell_reset_prg s h hi

theorem sound_reset {cart : Cart} (s : State) (h : accepts cart = true) : Sound (reset cart s) where
  memWf := reset_memWf cart s
  vramWf := reset_vramWf cart s
  romMirrored i hi := by
    obtain ⟨hlo, hhi⟩ := readCell_reset_prg s h hi
    rw [hlo, hhi]
  windowZero a hlo hhi := by
    have hnat : (BitVec.ofNat 16 a).toNat = a := Nat.mod_eq_of_lt (by omega)
    rw [readCell_eq_cell _ (by omega), cell_reset_below_rom _ _ _ (by omega), hnat]
    exact if_neg (by omega)
  ppuCycleBound := (by decide : 0 < frameCycles)
  faultAgrees := rfl

/-- Settles O52: every field of the state after RESET is of the cartridge or a constant, but for the
parameters. -/
theorem resetEstablishesSound : Obligations.ResetEstablishesSound := fun _ s _ h =>
  ⟨sound_reset s h, holdsPrg_reset s h, rfl⟩

end Sys2Proof.Machine
end

section
/-! SUPPORT. Cycle counts (70_reset_and_hazards.md R281 to R284): the base counts by the rows of R282,
the two penalties, and their sum. -/

namespace Sys2Proof.Machine

/-! ## The page penalty -/

theorem pagePenalty_le_one (i : Instr) (s : State) : pagePenalty i s ≤ 1 := by
  cases i with
  | lda o | ldx o | ldy o | ora o | and o | eor o | adc o | sbc o | cmp o =>
    cases o with
    | immediate b => exact Nat.zero_le 1
    | memory m => exact Bool.toNat_le _
  | undoc op o =>
    cases o with
    | implied | immediate b => exact Nat.zero_le 1
    | memory m => exact Bool.toNat_le _
  | _ => exact Nat.zero_le 1

/-- The instructions that carry the page penalty, with the operand whose crossing they pay for
(R283). -/
def CarriesPenalty (i : Instr) (m : MemOperand) : Prop :=
  i ∈ [.lda (.memory m), .ldx (.memory m), .ldy (.memory m), .ora (.memory m), .and (.memory m),
    .eor (.memory m), .adc (.memory m), .sbc (.memory m), .cmp (.memory m)] ∨
  ∃ op, i = .undoc op (.memory m) ∧ undocPenalty op = true

theorem pagePenalty_eq_one_iff (i : Instr) (s : State) :
    pagePenalty i s = 1 ↔ ∃ m, memCrossed m s = true ∧ CarriesPenalty i m := by
  cases i with
  | lda o | ldx o | ldy o | ora o | and o | eor o | adc o | sbc o | cmp o =>
    cases o <;> simp [pagePenalty, CarriesPenalty]
  | undoc op o => cases o <;> simp [pagePenalty, CarriesPenalty, and_comm]
  | _ => simp [pagePenalty, CarriesPenalty]

theorem undocPenalty_iff (op : Byte) : undocPenalty op = true ↔
    op ∈ ([0x1C, 0x3C, 0x5C, 0x7C, 0xDC, 0xFC, 0xB3, 0xBB, 0xBF] : List Byte) :=
  List.contains_iff_mem

/-- Only the modes that add an index to a 16-bit base can cross. -/
theorem mode_of_memCrossed {m : MemOperand} {s : State} (h : memCrossed m s = true) :
    m.mode ∈ [.absoluteX, .absoluteY, .indirectIndexed] := by
  by_contra hmode
  exact Bool.false_ne_true ((resolve_not_crossed s hmode).symm.trans h)

/-! ## The branch penalty -/

theorem branchPenalty_of_not_relative {i : Instr} (s : State) (h : i.mode ≠ .relative) :
    branchPenalty i s = 0 := by
  cases i with
  | bpl d | bmi d | bvc d | bvs d | bcc d | bcs d | bne d | beq d => exact absurd rfl h
  | _ => rfl

/-! ## The statements about the penalties -/

/-- Settles O48: without a branch penalty the count is the other two terms; the penalty is paid on a
crossing, which only three modes make. -/
theorem pageCrossingPenalty : Obligations.PageCrossingPenalty := by
  intro i s _
  refine ⟨fun h => ?_, pagePenalty_le_one i s, ?_⟩
  · rw [cycles, branchPenalty_of_not_relative s h, Nat.add_zero]
  · simp only [pagePenalty_eq_one_iff, CarriesPenalty, undocPenalty_iff]
    exact exists_congr fun m => and_congr_right fun h => (and_iff_right (mode_of_memCrossed h)).symm

/-- A branch has no page penalty, so its count is 2 and the branch penalty. -/
theorem cycles_branch {d : Byte} {i : Instr} (s : State)
    (h : i ∈ [.bpl d, .bmi d, .bvc d, .bvs d, .bcc d, .bcs d, .bne d, .beq d]) :
    cycles i s = 2 + if branchTaken i s.p then 1 + (resolveRelative d s).crossed.toNat else 0 := by
  simp only [List.mem_cons, List.not_mem_nil, or_false] at h
  rcases h with rfl | rfl | rfl | rfl | rfl | rfl | rfl | rfl <;> rfl

/-- The crossing of a branch is from the address after it, which the displacement's fetch leaves in
PC. -/
theorem resolveRelative_crossed_iff (d : Byte) (s : State) :
    (resolveRelative d s).crossed = true ↔
      (s.pc + 1).toNat / 256 ≠ (s.pc + 1 + d.signExtend 16).toNat / 256 := by
  simp only [resolveRelative, fetched1_pc]
  exact crossed_iff ..

/-- Settles O47: taken or not, and then by the pages. -/
theorem branchCycles : Obligations.BranchCycles := by
  intro d i s hi
  rw [cycles_branch s hi]
  have hcrossed := resolveRelative_crossed_iff d s
  split
  · split
    · next hpage =>
      rw [Bool.eq_false_iff.mpr fun h => hcrossed.mp h hpage]
      rfl
    · next hpage =>
      rw [hcrossed.mpr hpage]
      rfl
  · rfl

/-! ## Bounds -/

theorem readCycles_bounds (m : Mode) : 2 ≤ readCycles m ∧ readCycles m ≤ 6 := by
  cases m <;> decide

theorem writeCycles_bounds (m : MemOperand) : 2 ≤ writeCycles m ∧ writeCycles m ≤ 6 := by
  cases m <;> simp [writeCycles]

theorem modifyCycles_bounds (m : MemOperand) : 2 ≤ modifyCycles m ∧ modifyCycles m ≤ 8 := by
  cases m <;> simp [modifyCycles]

/-- The marked opcodes of R224 leave room for the penalty. -/
theorem undocCycles_bounds : ∀ op : Byte, 2 ≤ undocCycles op ∧ undocCycles op ≤ 8 ∧
    (undocPenalty op = true → undocCycles op ≤ 7) := by decide

theorem baseCycles_bounds (i : Instr) : 2 ≤ baseCycles i ∧ baseCycles i ≤ 8 := by
  cases i with
  | lda o | ldx o | ldy o | ora o | and o | eor o | adc o | sbc o | cmp o | cpx o | cpy o =>
    exact (readCycles_bounds o.mode).imp_right (Nat.le_trans · (by decide))
  | bit m => exact (readCycles_bounds m.mode).imp_right (Nat.le_trans · (by decide))
  | sta m | stx m | sty m => exact (writeCycles_bounds m).imp_right (Nat.le_trans · (by decide))
  | inc m | dec m => exact modifyCycles_bounds m
  | asl o | lsr o | rol o | ror o =>
    cases o with
    | accumulator => decide
    | memory m => exact modifyCycles_bounds m
  | jmp o => cases o <;> simp [baseCycles]
  | undoc op o =>
    obtain ⟨hlo, hhi, -⟩ := undocCycles_bounds op
    exact ⟨hlo, hhi⟩
  | _ => simp [baseCycles]

/-- No instruction that carries the page penalty has the highest base count. -/
theorem CarriesPenalty.baseCycles_le {i : Instr} {m : MemOperand} (h : CarriesPenalty i m) :
    baseCycles i ≤ 7 := by
  rcases h with hread | ⟨op, rfl, hmarked⟩
  · have hbase : baseCycles i = readCycles m.mode := by
      simp only [List.mem_cons, List.not_mem_nil, or_false] at hread
      rcases hread with rfl | rfl | rfl | rfl | rfl | rfl | rfl | rfl | rfl <;> rfl
    have hle := (readCycles_bounds m.mode).2
    omega
  · exact (undocCycles_bounds op).2.2 hmarked

theorem baseCycles_add_pagePenalty_le (i : Instr) (s : State) :
    baseCycles i + pagePenalty i s ≤ 8 := by
  have hbase := (baseCycles_bounds i).2
  have hone := pagePenalty_le_one i s
  by_cases hpen : pagePenalty i s = 1
  · obtain ⟨m, -, hcarries⟩ := (pagePenalty_eq_one_iff i s).mp hpen
    have hle := hcarries.baseCycles_le
    omega
  · omega

theorem cycles_bounds_of_no_branchPenalty {i : Instr} {s : State} (h : branchPenalty i s = 0) :
    2 ≤ cycles i s ∧ cycles i s ≤ 8 := by
  rw [cycles, h, Nat.add_zero]
  exact ⟨Nat.le_add_right_of_le (baseCycles_bounds i).1, baseCycles_add_pagePenalty_le i s⟩

theorem cycles_bounds_of_branch {d : Byte} {i : Instr} (s : State)
    (h : i ∈ [.bpl d, .bmi d, .bvc d, .bvs d, .bcc d, .bcs d, .bne d, .beq d]) :
    2 ≤ cycles i s ∧ cycles i s ≤ 8 := by
  rw [branchCycles d i s h]
  split
  · split <;> decide
  · decide

/-- Settles O45: a branch costs 2, 3 or 4, and every other instruction its base count and the page
penalty. -/
theorem cycleCountBounds : Obligations.CycleCountBounds := by
  intro i s _
  cases i with
  | bpl d | bmi d | bvc d | bvs d | bcc d | bcs d | bne d | beq d =>
    exact cycles_bounds_of_branch (d := d) s (by simp)
  | _ => exact cycles_bounds_of_no_branchPenalty rfl

/-! ## The table -/

/-- Settles O46 by evaluation: the base count looks at an operand's mode, so the operand bytes stay
unknown. -/
theorem documentedCycleTable : Obligations.DocumentedCycleTable := fun _ _ => rfl

end Sys2Proof.Machine
end

section
/-! SUPPORT. What a memory in canonical form reads as decides it (20_memory.md section 1): its cells
are the addresses with another byte than an unlisted one has, and their order is fixed. -/

namespace Sys2Proof.Machine

/-- An address with another byte than an unlisted one has is listed. -/
theorem mem_of_readCell_ne {d : Nat → Byte} {m : Memory} {a : Nat} (h : readCell d m a ≠ d a) :
    (a, readCell d m a) ∈ m := by
  induction m with
  | nil => exact absurd rfl h
  | cons e m ih =>
    unfold readCell at h ⊢
    split
    · next he => exact he ▸ List.mem_cons_self
    · next he =>
      rw [if_neg he] at h
      exact List.mem_cons_of_mem _ (ih h)

/-- In a list of rising addresses no cell hides a later one. -/
theorem readCell_of_mem {d : Nat → Byte} {m : Memory} {c : Host.Cell}
    (hsort : m.Pairwise (fun c e => c.1 < e.1)) (hc : c ∈ m) : readCell d m c.1 = c.2 := by
  induction hsort with
  | nil => cases hc
  | cons hlt _ ih =>
    rcases List.mem_cons.mp hc with rfl | hc
    · exact if_pos rfl
    · exact (if_neg (hlt c hc).ne).trans (ih hc)

/-- The cells of a canonical memory, by what it reads as. -/
theorem CellsWf.mem_iff {d : Nat → Byte} {bound : Nat} {m : Memory} (h : CellsWf d bound m)
    (c : Host.Cell) : c ∈ m ↔ readCell d m c.1 = c.2 ∧ c.2 ≠ d c.1 := by
  constructor
  · exact fun hc => ⟨readCell_of_mem h.1 hc, (h.2 c hc).2⟩
  · rintro ⟨hread, hne⟩
    rw [← hread] at hne
    have hmem := mem_of_readCell_ne hne
    rwa [hread] at hmem

/-- Canonical memories that read alike list the same cells in the same order. -/
theorem CellsWf.ext {d : Nat → Byte} {bound bound' : Nat} {m m' : Memory} (h : CellsWf d bound m)
    (h' : CellsWf d bound' m') (hread : ∀ a, readCell d m a = readCell d m' a) : m = m' := by
  have hnodup {l : Memory} (hl : l.Pairwise (fun c e => c.1 < e.1)) : l.Nodup :=
    hl.imp fun hlt heq => hlt.ne (congrArg Prod.fst heq)
  have hperm : m.Perm m' := (List.perm_ext_iff_of_nodup (hnodup h.1) (hnodup h'.1)).mpr fun c => by
    rw [h.mem_iff, h'.mem_iff, hread]
  exact hperm.eq_of_pairwise (fun _ _ _ _ hlt hgt => absurd hlt hgt.not_gt) h.1 h'.1

/-- Settles O14: the write laws of cell lists, and the canonical form is decided by its reads. -/
theorem canonicalMemory : Obligations.CanonicalMemory := fun m hm =>
  ⟨fun a b v ha => ⟨writeCell_wf _ _ m a v ha hm, readCell_writeCell _ m a b v⟩,
    fun _ hm' hread => CellsWf.ext hm hm' hread⟩

end Sys2Proof.Machine
end

section
/-! SUPPORT. RESET with the blank cartridge (log entry 2): its PRG image lists no cell, and each
part of RESET leaves MEM with none listed. -/

namespace Sys2Proof.Machine

/-! ## MEM with no cell listed -/

theorem cell_of_mem_nil {s : State} (h : s.mem = []) (a : Word) :
    cell s a = memDefault a.toNat := by
  rw [cell, h]
  rfl

theorem setCell_memDefault {s : State} (h : s.mem = []) {a : Word} {v : Byte}
    (hv : v = memDefault a.toNat) : setCell a v s = s := by
  have hwrite : writeCell memDefault [] a.toNat v = [] := if_pos hv
  rw [setCell, h, hwrite, ← h]

/-- A copy of the byte that unlisted addresses read as lists nothing. -/
theorem romCells_replicate {d : Nat → Byte} {v : Byte} {base : Nat} (n : Nat)
    (h : ∀ a, base ≤ a → d a = v) : romCells d base (List.replicate n v) = [] := by
  induction n generalizing base with
  | zero => rfl
  | succ n ih =>
    rw [List.replicate_succ, romCells, if_pos (h base le_rfl).symm]
    exact ih fun a ha => h a (Nat.le_of_succ_le ha)

/-! ## The parts of RESET (70_reset_and_hazards.md R270) -/

theorem accepts_blankCart : accepts blankCart = true :=
  (accepts_iff blankCart).mpr ⟨rfl, rfl, rfl, rfl, List.length_replicate⟩

/-- R271: the image and PPUSTATUS get what unlisted addresses read as. -/
theorem busReset_blankCart (s : State) : busReset blankCart s = { s with mem := [] } := by
  have hprg : blankCart.prg.take prgBytes = List.replicate prgBytes 0x00 :=
    List.take_of_length_le List.length_replicate.le
  have hcopy {base : Nat} (hbase : 0x8000 ≤ base) :
      romCells memDefault base (List.replicate prgBytes 0x00) = [] :=
    romCells_replicate _ fun a ha => if_neg (by omega)
  rw [busReset, hprg, hcopy le_rfl, hcopy (by decide)]
  exact setCell_memDefault rfl rfl

/-- R272: PPUSTATUS has the two bits already, and there is no CHR to copy. -/
theorem ppuReset_blankCart {s : State} (h : s.mem = []) : ppuReset blankCart s =
    { s with vram := [], w := false, vaddr := 0x0000, ppuCycle := 0 } := by
  rw [ppuReset, cell_of_mem_nil h, setCell_memDefault h (by decide)]
  rfl

/-- R273: the vector is 0x0000. -/
theorem cpuReset_of_mem_nil {s : State} (h : s.mem = []) : cpuReset s =
    { s with a := 0x00, x := 0x00, y := 0x00, sp := 0xFD, pc := 0x0000, p := Flags.reset } := by
  have hvector : word (cell s resetVectorHi) (cell s resetVectorLo) = 0x0000 := by
    rw [cell_of_mem_nil h, cell_of_mem_nil h]
    decide
  rw [cpuReset, hvector]
  rfl

theorem reset_blankCart (s : State) :
    reset blankCart s = { State.reset with params := s.params } := by
  rw [reset, busReset_blankCart, ppuReset_blankCart rfl, cpuReset_of_mem_nil rfl]
  rfl

/-- Settles O50: the state after reset is what RESET gives with an accepted cartridge, so it is
sound. -/
theorem resetSound : Obligations.ResetSound := by
  have hreset (s : State) : reset blankCart { s with params := {} } = State.reset :=
    reset_blankCart _
  exact ⟨hreset State.reset ▸ sound_reset _ accepts_blankCart, accepts_blankCart, hreset⟩

end Sys2Proof.Machine
end
